-- ==== Sys2Proof/Word.lean ====
section
/-! DEFINITION. The widths of the chip's values (00_scope.md R9, R13): bytes, 16-bit addresses and timer quantities, and the
9-bit operation word of 30_encoding.md R81. All values are unsigned. -/

namespace Sys2Proof

/-- A `u8` of 00_scope.md R9: a register, a data byte, a page number. -/
abbrev Byte := BitVec 8

/-- A 16-bit bus address (20_memory.md R60). -/
abbrev Addr := BitVec 16

/-- A `u16` of 00_scope.md R9: the live value or the latch of a timer (10_state.md R21). -/
abbrev Count := BitVec 16

/-- The operation word `w mmmm oooo` of 30_encoding.md R81: bit 8 is `rw` (1 for a write), bits 7:4 the mirror, bits 3:0 the
register offset. -/
abbrev OpWord := BitVec 9

end Sys2Proof
end

