-- ==== Sys2Proof/Machine/Parts.lean ====
section
/-! DEFINITION. The parts of a chip's record that a reset value is given for as a whole (10_state.md R21, R29, R35): a timer, the four
bytes of the clock or of the alarm, and the fields of instance 1 alone. Plain data. -/

namespace Sys2Proof

/-- The seven values of a timer's `state` (10_state.md R22). -/
inductive TimerState where
  | stop
  | waitCount
  | loadStop
  | loadCount
  | loadWaitCount
  | count
  | countStop
deriving DecidableEq, Repr

namespace Machine

/-- One TimerUnit (10_state.md R21). -/
structure Timer where
  /-- "live countdown register" -/
  value : Count
  /-- "reload value written by software" -/
  latch : Count
  /-- "current effective control byte" -/
  control : Byte
  /-- "a control byte written this cycle but not yet applied" -/
  pendingControl : Byte
  /-- Whether `pendingControl` holds a write not yet applied (10_state.md R24). -/
  pendingValid : Bool
  /-- The state machine's state (10_state.md R22). -/
  state : TimerState
  /-- The timer counts Phi2 (10_state.md R25). -/
  countsSystemClock : Bool
  /-- The timer counts timer A's underflows; timer B only (10_state.md R25). -/
  countsOtherTimerUnderflow : Bool
  /-- Set by the countdown step when it underflows (10_state.md R26). -/
  underflowedThisCycle : Bool
  /-- Set by the interrupt-fire action, cleared by the delivery step (10_state.md R26). -/
  interruptPendingNextCycle : Bool
deriving DecidableEq, Repr

/-- The four BCD bytes of the live clock or of the alarm (10_state.md R29, R30). -/
structure TodTime where
  hours : Byte
  minutes : Byte
  seconds : Byte
  deciseconds : Byte
deriving DecidableEq, Repr

/-- The fields only instance 1 has (10_state.md R35, R37). -/
structure Instance1 where
  /-- `key_matrix[0..7]`: 0 in bit `k` of entry `r` while the key at row `r`, column `k` is down. -/
  keyMatrix : Vector Byte 8
  /-- `reverse_key_matrix[0..7]`, the transpose. -/
  reverseKeyMatrix : Vector Byte 8
  /-- Active low. -/
  joystick1 : Byte
  /-- Active low. -/
  joystick2 : Byte
  /-- The last observed value of the light-pen bit (10_state.md R37). -/
  previousLightPenLine : Byte
deriving DecidableEq, Repr

end Machine

end Sys2Proof
end

