-- ==== Sys2Proof/Config.lean ====
section
/-! DEFINITION. The parameters of 00_scope.md R13 that have alternatives, as one record (`Config`), and the one value the spec
leaves unstated under an alternative (`Config.freeHour`). The defaults are in Machine/Params.lean. -/

namespace Sys2Proof

/-- The parameter `COUNTSTOP_UNDERFLOW` of 40_timer.md R114: what an underflow in `CountStop` does. -/
inductive CountStopUnderflow where
  | fireAndStop
  | fireAndFollow
  | suppress
deriving DecidableEq, Repr

/-- The parameter `TOD_HOUR_STYLE` of 42_tod.md R162. -/
inductive HourStyle where
  | zeroToEleven
  | oneToTwelve
deriving DecidableEq, Repr

/-- The parameter `LIGHTPEN_EDGE` of 43_register_file.md R196. -/
inductive LightPenEdge where
  | both
  | falling
deriving DecidableEq, Repr

/-- One row of the table of 40_timer.md R117. `none` in a bit column is the table's "-" (either value); `none` as the new state
is the table's "same". -/
structure IdleRow where
  states : List TimerState
  run : Option Bool
  load : Option Bool
  oneShot : Option Bool
  newState : Option TimerState
  clearsRun : Bool
deriving DecidableEq, Repr

/-- The TOD write masks of 00_scope.md R13, one for each field (42_tod.md R166, 30_encoding.md R90). -/
structure TodMasks where
  hours : Byte
  minutes : Byte
  seconds : Byte
  deciseconds : Byte
deriving DecidableEq, Repr

open Machine in
/-- The reset values of 00_scope.md R13: the record of 10_state.md R49 as a whole (93_implementation_defined.md U14), one for both
instances. `int_line` is not in it: RESET releases the line whatever the record (70_reset_and_hazards.md R270). -/
structure ResetRecord where
  timerA : Timer
  timerB : Timer
  mask : Byte
  pending : Byte
  tod : TodTime
  alarm : TodTime
  todHalted : Bool
  todDivisor : Byte
  portA : Byte
  portB : Byte
  directionA : Byte
  directionB : Byte
  sdr : Byte
  /-- The key tables, the joysticks and the light-pen line last observed, of instance 1. -/
  inst1 : Instance1
  /-- The serial lines of instance 2. -/
  serialBusLines : Byte
deriving DecidableEq, Repr

/-- The parameters of 00_scope.md R13. They are arguments of the step (10_state.md R48); since a step takes one argument here, the
record stands in `State.cfg` and no operation writes it (notes/assumptions/2.md). -/
structure Config where
  /-- `PAGE_BASE_1` (20_memory.md R61). -/
  pageBase1 : Addr
  /-- `PAGE_BASE_2` (20_memory.md R61). -/
  pageBase2 : Addr
  /-- `IDLE_TABLE` (40_timer.md R117): the first row that matches counts. -/
  idleTable : List IdleRow
  /-- `COUNTSTOP_UNDERFLOW` (40_timer.md R114). -/
  countStopUnderflow : CountStopUnderflow
  /-- `CONTROL_KEEPS_FORCE_LOAD` (40_timer.md R118). -/
  controlKeepsForceLoad : Bool
  /-- `TIMER_B_DELIVERY` (44_chip_cycle.md R232). -/
  timerBDelivery : Bool
  /-- `TOD_DIV_BIT_SET` (42_tod.md R157). -/
  todDivBitSet : Byte
  /-- `TOD_DIV_BIT_CLEAR` (42_tod.md R157). -/
  todDivBitClear : Byte
  /-- `TOD_HOUR_STYLE` (42_tod.md R162). -/
  todHourStyle : HourStyle
  /-- `SDR_WRITE_RAISES` (43_register_file.md R207). -/
  sdrWriteRaises : Bool
  /-- `LIGHTPEN_EDGE` (43_register_file.md R196). -/
  lightPenEdge : LightPenEdge
  /-- The TOD write masks (42_tod.md R166). -/
  todWriteMasks : TodMasks
  /-- The reset values (10_state.md R49, 70_reset_and_hazards.md R270). -/
  resetRecord : ResetRecord
deriving DecidableEq, Repr

/-- FREE VALUE (DESIGN CHOICE, notes/assumptions/13.md). The hour byte that follows `old` under `TOD_HOUR_STYLE = one_to_twelve`
where neither 42_tod.md R162 nor vector set V14 of 95_test_vectors.md states a successor: the low five bits of `old` are 0x0A to 0x0F,
0x13 to 0x18 or 0x1A to 0x1E. It has no body: nothing can be proved of its value. It is never consulted under the default
`zero_to_eleven`. -/
opaque Config.freeHour (old : Byte) : Byte

end Sys2Proof
end

