-- ==== Sys2Proof/Machine/Params.lean ====
section
/-! DEFINITION. The values of 00_scope.md R13: the default configuration record with the idle table of 40_timer.md R117, the TOD
write masks and the reset record, and the parameters that have one value only (bit positions, source bits, gate), each under a name a
claim can use. -/

namespace Sys2Proof.Machine

/-! ### Control byte positions (30_encoding.md R87 to R89; PRESUMED D3, notes/assumptions/7.md) -/

/-- `RUN`, bit 0 of a control byte (30_encoding.md R87). -/
def runPos : Nat := 0
/-- `ONE_SHOT`, bit 3 of a control byte (30_encoding.md R87). -/
def oneShotPos : Nat := 3
/-- `FORCE_LOAD`, bit 4 of a control byte (30_encoding.md R87). -/
def forceLoadPos : Nat := 4
/-- `INMODE_A`, bit 5 of control A (30_encoding.md R88). -/
def inModeAPos : Nat := 5
/-- The low bit of `INMODE_B`, bits 6:5 of control B (30_encoding.md R89). -/
def inModeBPos : Nat := 5
/-- `TOD_50HZ`, bit 7 of control A (30_encoding.md R88). -/
def tod50HzPos : Nat := 7
/-- `ALARM_SELECT`, bit 7 of control B (30_encoding.md R89). -/
def alarmSelectPos : Nat := 7

/-! ### Interrupt sources (30_encoding.md R86) -/

/-- Timer A's pending and mask bit. -/
def srcTimerA : Byte := 0x01
/-- Timer B's pending and mask bit. -/
def srcTimerB : Byte := 0x02
/-- The alarm's pending and mask bit. -/
def srcAlarm : Byte := 0x04
/-- The serial data register's pending and mask bit (PRESUMED label D35, notes/assumptions/15.md). -/
def srcSerial : Byte := 0x08
/-- The summary bit of `pending`, bit 7. -/
def summaryBit : Byte := 0x80
/-- The summary gate of 41_interrupt_controller.md R142. -/
def summaryGate : Byte := 0x1F

/-! ### Port lines (30_encoding.md R91; PRESUMED D24 to D26, notes/assumptions/16.md, 17.md) -/

/-- The light-pen line, port B bit 4 of instance 1 (43_register_file.md R196). -/
def lightPenLine : Byte := 0x10
/-- The bank-select bits, port A bits 1:0 of instance 2 (43_register_file.md R197). -/
def bankBits : Byte := 0x03
/-- The serial-bus input bits, port A bits 7:6 of instance 2 (43_register_file.md R188). -/
def serialInputBits : Byte := 0xC0
/-- The port A bits of instance 2 that read the chip's own pins (43_register_file.md R188). -/
def serialPinBits : Byte := 0x3F

/-! ### The default configuration -/

/-- The default `IDLE_TABLE`, row by row as 40_timer.md R117 prints it (the first two rows are fixed by the source for `Stop`; the
rest is the spec's decision D7, notes/assumptions/8.md). -/
def defaultIdleTable : List IdleRow :=
  [ { states := [.stop, .loadStop], run := some true, load := some false, oneShot := none,
      newState := some .waitCount, clearsRun := false },
    { states := [.stop, .loadStop], run := some true, load := some true, oneShot := none,
      newState := some .loadWaitCount, clearsRun := false },
    { states := [.stop, .loadStop], run := some false, load := some true, oneShot := none,
      newState := some .loadStop, clearsRun := false },
    { states := [.stop, .loadStop], run := some false, load := some false, oneShot := none,
      newState := none, clearsRun := false },
    { states := [.count], run := some true, load := some true, oneShot := none,
      newState := some .loadWaitCount, clearsRun := false },
    { states := [.count], run := some true, load := some false, oneShot := none,
      newState := none, clearsRun := false },
    { states := [.count], run := some false, load := some true, oneShot := none,
      newState := some .loadStop, clearsRun := false },
    { states := [.count], run := some false, load := some false, oneShot := none,
      newState := some .countStop, clearsRun := false } ] ++
  [ { states := [.loadCount, .waitCount], run := some true, load := none, oneShot := some true,
      newState := some .stop, clearsRun := true },
    { states := [.loadCount, .waitCount], run := some true, load := some true, oneShot := some false,
      newState := some .loadWaitCount, clearsRun := false },
    { states := [.loadCount, .waitCount], run := some true, load := some false, oneShot := some false,
      newState := none, clearsRun := false },
    { states := [.loadCount, .waitCount], run := some false, load := none, oneShot := none,
      newState := some .stop, clearsRun := false },
    { states := [.loadWaitCount, .countStop], run := none, load := none, oneShot := none,
      newState := none, clearsRun := false } ]

/-- The TOD write masks of 42_tod.md R166 (PRESUMED D19, notes/assumptions/14.md). -/
def defaultTodMasks : TodMasks where
  hours := 0x9F
  minutes := 0x7F
  seconds := 0x7F
  deciseconds := 0x0F

/-! ### The default reset record: the table of 10_state.md R49 (DESIGN CHOICE D28, notes/assumptions/6.md) -/

/-- A timer after reset. -/
def timerAtReset : Timer where
  value := 0xFFFF
  latch := 0xFFFF
  control := 0x00
  pendingControl := 0x00
  pendingValid := false
  state := .stop
  countsSystemClock := true
  countsOtherTimerUnderflow := false
  underflowedThisCycle := false
  interruptPendingNextCycle := false

/-- Clock and alarm after reset: 00:00:00.0 AM. -/
def todAtReset : TodTime where
  hours := 0x00
  minutes := 0x00
  seconds := 0x00
  deciseconds := 0x00

/-- The fields of instance 1 after reset: no key down, no switch closed, the light-pen bit high. -/
def instance1AtReset : Instance1 where
  keyMatrix := Vector.replicate 8 0xFF
  reverseKeyMatrix := Vector.replicate 8 0xFF
  joystick1 := 0xFF
  joystick2 := 0xFF
  previousLightPenLine := 0x10

/-- The table of 10_state.md R49; the serial lines are both released. -/
def defaultResetRecord : ResetRecord where
  timerA := timerAtReset
  timerB := timerAtReset
  mask := 0x00
  pending := 0x00
  tod := todAtReset
  alarm := todAtReset
  todHalted := false
  todDivisor := 0x00
  portA := 0x00
  portB := 0x00
  directionA := 0x00
  directionB := 0x00
  sdr := 0x00
  inst1 := instance1AtReset
  serialBusLines := 0xC0

/-! ### The whole record -/

/-- The defaults of 00_scope.md R13 (PRESUMED or DESIGN CHOICE as the decisions of 92_eei_decisions.md they name; notes/assumptions/2.md,
5.md). -/
def defaultConfig : Config where
  pageBase1 := 0xDC00
  pageBase2 := 0xDD00
  idleTable := defaultIdleTable
  countStopUnderflow := .fireAndStop
  controlKeepsForceLoad := false
  timerBDelivery := true
  todDivBitSet := 4
  todDivBitClear := 5
  todHourStyle := .zeroToEleven
  sdrWriteRaises := false
  lightPenEdge := .both
  todWriteMasks := defaultTodMasks
  resetRecord := defaultResetRecord

end Sys2Proof.Machine
end

