-- ==== Sys2Proof/Machine/Operands.lean ====
section
/-! DEFINITION. Every operand form of the chip: the fields of an address (30_encoding.md R80, R82), the halves of a timer
quantity (R83), the fields of a control byte (R87 to R89), of an ICR byte (R85) and of the TOD bytes (R90). -/

namespace Sys2Proof.Machine

/-! ### Fields of an address (30_encoding.md R80) -/

/-- Bits 15:8 of an address, the page. -/
def pageOf (addr : Addr) : Byte := addr.extractLsb' 8 8
/-- Bits 7:0 of an address, the low byte (mirror and offset). -/
def lowOf (addr : Addr) : Byte := addr.extractLsb' 0 8
/-- Bits 3:0 of an address: the fold modulo 16 of 20_memory.md R62. -/
def offsetOf (addr : Addr) : BitVec 4 := addr.extractLsb' 0 4
/-- The address `page ++ low` (30_encoding.md R80, R81). -/
def addrOf (page low : Byte) : Addr := page ++ low

/-! ### Halves of a timer quantity (30_encoding.md R83) -/

/-- `lo8(w)` of 00_scope.md R10. -/
def lo8 (w : Count) : Byte := w.extractLsb' 0 8
/-- `hi8(w)` of 00_scope.md R10. -/
def hi8 (w : Count) : Byte := w.extractLsb' 8 8
/-- The latch after a low-byte write: `(latch & 0xFF00) | v`. -/
def withLo8 (w : Count) (v : Byte) : Count := (w &&& 0xFF00) ||| v.setWidth 16
/-- The latch after a high-byte write: `(latch & 0x00FF) | (v << 8)`. -/
def withHi8 (w : Count) (v : Byte) : Count := (w &&& 0x00FF) ||| (v.setWidth 16 <<< 8)

/-! ### Fields of a control byte (30_encoding.md R87 to R89) -/

/-- `RUN`. -/
def runBit (v : Byte) : Bool := v.getLsbD runPos
/-- `ONE_SHOT`. -/
def oneShotBit (v : Byte) : Bool := v.getLsbD oneShotPos
/-- `FORCE_LOAD`. -/
def forceLoadBit (v : Byte) : Bool := v.getLsbD forceLoadPos
/-- `INMODE_A`. -/
def inModeA (v : Byte) : Bool := v.getLsbD inModeAPos
/-- `INMODE_B`, `v[6:5]`. -/
def inModeB (v : Byte) : BitVec 2 := v.extractLsb' inModeBPos 2
/-- `TOD_50HZ`. -/
def tod50Hz (v : Byte) : Bool := v.getLsbD tod50HzPos
/-- `ALARM_SELECT`. -/
def alarmSelect (v : Byte) : Bool := v.getLsbD alarmSelectPos
/-- `x[i] <- 0` of 00_scope.md R10 for a byte. -/
def clearBit (v : Byte) (i : Nat) : Byte := v &&& ~~~(1#8 <<< i)

/-! ### Fields of an ICR write (30_encoding.md R85) -/

/-- `SET_CLEAR`, bit 7. -/
def icrSets (v : Byte) : Bool := v.getLsbD 7
/-- `SOURCES`, bits 6:0. -/
def icrSources (v : Byte) : Byte := v &&& 0x7F

/-! ### TOD bytes (30_encoding.md R90) -/

/-- The four fields of the clock and of the alarm. -/
inductive TodField where
  | deciseconds
  | seconds
  | minutes
  | hours
deriving DecidableEq, Repr

/-- The write mask of a field (42_tod.md R166). -/
def todWriteMask (masks : TodMasks) : TodField → Byte
  | .deciseconds => masks.deciseconds
  | .seconds => masks.seconds
  | .minutes => masks.minutes
  | .hours => masks.hours

/-- The units digit, `v[3:0]`, as a number. -/
def unitsDigit (v : Byte) : Nat := (v.extractLsb' 0 4).toNat
/-- The tens digit of seconds and minutes, `v[6:4]`, as a number. -/
def tensDigit (v : Byte) : Nat := (v.extractLsb' 4 3).toNat
/-- The tens digit of hours, `v[4]`, as a number. -/
def hourTens (v : Byte) : Nat := (v.extractLsb' 4 1).toNat
/-- The AM/PM flag of hours, `v[7]`. -/
def pmFlag (v : Byte) : Bool := v.getLsbD 7
/-- A flag put back into bit 7 over the low bits `h`: `(pm << 7) | h`. -/
def withPmFlag (pm : Bool) (h : Nat) : Byte := (if pm then 0x80 else 0x00) ||| BitVec.ofNat 8 h

end Sys2Proof.Machine
end

