-- ==== Sys2Proof/Syntax.lean ====
section
/-! DEFINITION. The operations of one chip pair, one constructor per row of spec/opcode_table.json (00_scope.md R7, R8: an
operation is what an instruction is to a processor). A bus operation carries the instance it reaches and the 16-bit address of
the access, as `BusRead(c, addr)` and `BusWrite(c, addr, v)` do (43_register_file.md R181, R182). -/

namespace Sys2Proof

/-- The instance number of a chip, 1 or 2 (00_scope.md R1, 10_state.md R20). -/
inductive Inst where
  | one
  | two
deriving DecidableEq, Repr

/-- The joystick number `n` of `HostSetJoystick(n, v)`, 1 or 2 (30_encoding.md R92). -/
inductive Joystick where
  | one
  | two
deriving DecidableEq, Repr

/-- The 40 operations of 30_encoding.md R84. -/
inductive Instr where
  /-- `RD_PRA_1`, 43_register_file.md R185 (instance 1). -/
  | rdPra1 (addr : Addr)
  /-- `RD_PRA_2`, 43_register_file.md R188 (instance 2). -/
  | rdPra2 (addr : Addr)
  /-- `RD_PRB_1`, 43_register_file.md R186 (instance 1). -/
  | rdPrb1 (addr : Addr)
  /-- `RD_PRB_2`, 43_register_file.md R189 (instance 2). -/
  | rdPrb2 (addr : Addr)
  /-- `RD_DDRA`, 43_register_file.md R190. -/
  | rdDdra (c : Inst) (addr : Addr)
  /-- `RD_DDRB`, 43_register_file.md R191. -/
  | rdDdrb (c : Inst) (addr : Addr)
  /-- `RD_TALO`, 43_register_file.md R198. -/
  | rdTalo (c : Inst) (addr : Addr)
  /-- `RD_TAHI`, 43_register_file.md R199. -/
  | rdTahi (c : Inst) (addr : Addr)
  /-- `RD_TBLO`, 43_register_file.md R200. -/
  | rdTblo (c : Inst) (addr : Addr)
  /-- `RD_TBHI`, 43_register_file.md R201. -/
  | rdTbhi (c : Inst) (addr : Addr)
  /-- `RD_TOD10`, 42_tod.md R163. -/
  | rdTod10 (c : Inst) (addr : Addr)
  /-- `RD_TODSEC`, 42_tod.md R165. -/
  | rdTodsec (c : Inst) (addr : Addr)
  /-- `RD_TODMIN`, 42_tod.md R171. -/
  | rdTodmin (c : Inst) (addr : Addr)
  /-- `RD_TODHR`, 42_tod.md R164. -/
  | rdTodhr (c : Inst) (addr : Addr)
  /-- `RD_SDR`, 43_register_file.md R206. -/
  | rdSdr (c : Inst) (addr : Addr)
  /-- `RD_ICR`, 41_interrupt_controller.md R145. -/
  | rdIcr (c : Inst) (addr : Addr)
  /-- `RD_CRA`, 43_register_file.md R208. -/
  | rdCra (c : Inst) (addr : Addr)
  /-- `RD_CRB`, 43_register_file.md R209. -/
  | rdCrb (c : Inst) (addr : Addr)
  /-- `WR_PRA`, 43_register_file.md R192. -/
  | wrPra (c : Inst) (addr : Addr) (v : Byte)
  /-- `WR_PRB`, 43_register_file.md R193. -/
  | wrPrb (c : Inst) (addr : Addr) (v : Byte)
  /-- `WR_DDRA`, 43_register_file.md R194. -/
  | wrDdra (c : Inst) (addr : Addr) (v : Byte)
  /-- `WR_DDRB`, 43_register_file.md R195. -/
  | wrDdrb (c : Inst) (addr : Addr) (v : Byte)
  /-- `WR_TALO`, 43_register_file.md R202. -/
  | wrTalo (c : Inst) (addr : Addr) (v : Byte)
  /-- `WR_TAHI`, 43_register_file.md R203. -/
  | wrTahi (c : Inst) (addr : Addr) (v : Byte)
  /-- `WR_TBLO`, 43_register_file.md R204. -/
  | wrTblo (c : Inst) (addr : Addr) (v : Byte)
  /-- `WR_TBHI`, 43_register_file.md R205. -/
  | wrTbhi (c : Inst) (addr : Addr) (v : Byte)
  /-- `WR_TOD10`, 42_tod.md R175. -/
  | wrTod10 (c : Inst) (addr : Addr) (v : Byte)
  /-- `WR_TODSEC`, 42_tod.md R172. -/
  | wrTodsec (c : Inst) (addr : Addr) (v : Byte)
  /-- `WR_TODMIN`, 42_tod.md R173. -/
  | wrTodmin (c : Inst) (addr : Addr) (v : Byte)
  /-- `WR_TODHR`, 42_tod.md R174. -/
  | wrTodhr (c : Inst) (addr : Addr) (v : Byte)
  /-- `WR_SDR`, 43_register_file.md R207. -/
  | wrSdr (c : Inst) (addr : Addr) (v : Byte)
  /-- `WR_ICR`, 41_interrupt_controller.md R146. -/
  | wrIcr (c : Inst) (addr : Addr) (v : Byte)
  /-- `WR_CRA`, 43_register_file.md R210. -/
  | wrCra (c : Inst) (addr : Addr) (v : Byte)
  /-- `WR_CRB`, 43_register_file.md R211. -/
  | wrCrb (c : Inst) (addr : Addr) (v : Byte)
  /-- `CYCLE`, 44_chip_cycle.md R230. -/
  | cycle (c : Inst)
  /-- `TODTICK`, 42_tod.md R156. -/
  | todTick (c : Inst)
  /-- `RESET`, 70_reset_and_hazards.md R270. -/
  | reset (c : Inst)
  /-- `HOSTKEY`, 43_register_file.md R213 (instance 1). -/
  | hostKey (row column : Fin 8) (pressed : Bool)
  /-- `HOSTJOY`, 43_register_file.md R214 (instance 1). -/
  | hostJoy (n : Joystick) (v : Byte)
  /-- `HOSTSER`, 43_register_file.md R215 (instance 2). -/
  | hostSer (v : Byte)
deriving DecidableEq, Repr

end Sys2Proof
end

