-- ==== Sys2Proof/WellFormed.lean ====
section
/-! DEFINITION. When a term of `Instr` is one that the encoding can produce: a bus operation names an address whose low four bits
select its own register (20_memory.md R62, 30_encoding.md R84). Every page and every mirror is admitted; a page that is not the
instance's is no ill-formed term but the fatal access of 60_exceptions.md R241. -/

namespace Sys2Proof

/-- The register offset that a bus operation's address must fold to (30_encoding.md R84). -/
def Instr.busOffset : Instr → Option (Addr × BitVec 4)
  | .rdPra1 a => some (a, 0x0)
  | .rdPra2 a => some (a, 0x0)
  | .rdPrb1 a => some (a, 0x1)
  | .rdPrb2 a => some (a, 0x1)
  | .rdDdra _ a => some (a, 0x2)
  | .rdDdrb _ a => some (a, 0x3)
  | .rdTalo _ a => some (a, 0x4)
  | .rdTahi _ a => some (a, 0x5)
  | .rdTblo _ a => some (a, 0x6)
  | .rdTbhi _ a => some (a, 0x7)
  | .rdTod10 _ a => some (a, 0x8)
  | .rdTodsec _ a => some (a, 0x9)
  | .rdTodmin _ a => some (a, 0xA)
  | .rdTodhr _ a => some (a, 0xB)
  | .rdSdr _ a => some (a, 0xC)
  | .rdIcr _ a => some (a, 0xD)
  | .rdCra _ a => some (a, 0xE)
  | .rdCrb _ a => some (a, 0xF)
  | .wrPra _ a _ => some (a, 0x0)
  | .wrPrb _ a _ => some (a, 0x1)
  | .wrDdra _ a _ => some (a, 0x2)
  | .wrDdrb _ a _ => some (a, 0x3)
  | .wrTalo _ a _ => some (a, 0x4)
  | .wrTahi _ a _ => some (a, 0x5)
  | .wrTblo _ a _ => some (a, 0x6)
  | .wrTbhi _ a _ => some (a, 0x7)
  | .wrTod10 _ a _ => some (a, 0x8)
  | .wrTodsec _ a _ => some (a, 0x9)
  | .wrTodmin _ a _ => some (a, 0xA)
  | .wrTodhr _ a _ => some (a, 0xB)
  | .wrSdr _ a _ => some (a, 0xC)
  | .wrIcr _ a _ => some (a, 0xD)
  | .wrCra _ a _ => some (a, 0xE)
  | .wrCrb _ a _ => some (a, 0xF)
  | .cycle _ => none
  | .todTick _ => none
  | .reset _ => none
  | .hostKey _ _ _ => none
  | .hostJoy _ _ => none
  | .hostSer _ => none

/-- The one check: a bus operation's address selects the operation's register. Pin events have no encoding to get wrong (30_encoding.md
R95), and their operands' ranges (R92) are in their types. -/
def Instr.wellFormed (i : Instr) : Bool :=
  match i.busOffset with
  | some (addr, k) => Machine.offsetOf addr == k
  | none => true

end Sys2Proof
end

