-- ==== Sys2Proof/Decode.lean ====
section
/-! DEFINITION. The decoder and the encoder. What reaches the chips is a `Request`: a bus access as the signals of 30_encoding.md
R80 and R81 (instance, page byte, 9-bit operation word, data byte), or a pin event with its data (R92, R95). `decode` is total and
rejects by name; `encode` is its inverse on well-formed operations. -/

namespace Sys2Proof

/-- One operation as the environment presents it at the chips' boundary. The bus access is the tuple `(rw, addr, data)` of
30_encoding.md R80 on an instance, packaged as R81 does: `rw` and the low address byte in the operation word, the page beside it;
the data byte is not looked at on a read. Host operations carry the raw numbers of R92 and the instance they are put on (DESIGN CHOICE,
notes/assumptions/30.md). -/
inductive Request where
  | bus (c : Inst) (page : Byte) (word : OpWord) (data : Byte)
  | cycle (c : Inst)
  | todTick (c : Inst)
  | reset (c : Inst)
  | hostKey (c : Inst) (row column : Byte) (pressed : Bool)
  | hostJoy (c : Inst) (n v : Byte)
  | hostSer (c : Inst) (v : Byte)
deriving DecidableEq, Repr

/-- Why a request is no operation of the chip it is put on. All but `noRow` are outside the domain by 30_encoding.md R92 and
93_implementation_defined.md U21; `noRow` cannot happen (43_register_file.md R181: the sixteen cases are exhaustive). -/
inductive DecodeError where
  /-- No row of the operation map matches the operation word. -/
  | noRow
  /-- `HostSetKey` put on instance 2, which has no keyboard (U21). -/
  | hostKeyOnInstance2
  /-- `HostSetKey` with a row above 7 (R92). -/
  | keyRowOutOfRange
  /-- `HostSetKey` with a column above 7 (R92). -/
  | keyColumnOutOfRange
  /-- `HostSetJoystick` put on instance 2, which has no joysticks (U21). -/
  | hostJoyOnInstance2
  /-- `HostSetJoystick` with a number other than 1 and 2 (R92). -/
  | joystickOutOfRange
  /-- `HostSetSerialLines` put on instance 1, which has no serial lines (U21). -/
  | hostSerOnInstance1
deriving DecidableEq, Repr

namespace Machine

/-- One bus row of spec/opcode_table.json: its `mask` and `match`, the instance it is for where the table splits a row by instance
(30_encoding.md R84), and the operation it stands for. -/
structure OpRow where
  mask : OpWord
  bits : OpWord
  only : Option Inst
  build : Inst → Addr → Byte → Instr

/-- A read row: `rw` 0, offset `k`, mask 0x10F (30_encoding.md R81). -/
def readRow (k : BitVec 4) (build : Inst → Addr → Instr) : OpRow :=
  { mask := 0x10F, bits := 0#5 ++ k, only := none, build := fun c a _ => build c a }

/-- A read row of one instance only. -/
def readRowOf (c : Inst) (k : BitVec 4) (build : Addr → Instr) : OpRow :=
  { mask := 0x10F, bits := 0#5 ++ k, only := some c, build := fun _ a _ => build a }

/-- A write row: `rw` 1, offset `k`, mask 0x10F (30_encoding.md R81). -/
def writeRow (k : BitVec 4) (build : Inst → Addr → Byte → Instr) : OpRow :=
  { mask := 0x10F, bits := 0x10#5 ++ k, only := none, build := build }

/-- The 18 read rows (30_encoding.md R84, 43_register_file.md R181). -/
def readRows : List OpRow :=
  [ readRowOf .one 0x0 .rdPra1, readRowOf .two 0x0 .rdPra2, readRowOf .one 0x1 .rdPrb1, readRowOf .two 0x1 .rdPrb2,
    readRow 0x2 .rdDdra, readRow 0x3 .rdDdrb,
    readRow 0x4 .rdTalo, readRow 0x5 .rdTahi, readRow 0x6 .rdTblo, readRow 0x7 .rdTbhi,
    readRow 0x8 .rdTod10, readRow 0x9 .rdTodsec, readRow 0xA .rdTodmin, readRow 0xB .rdTodhr,
    readRow 0xC .rdSdr, readRow 0xD .rdIcr, readRow 0xE .rdCra, readRow 0xF .rdCrb ]

/-- The 16 write rows (30_encoding.md R84, 43_register_file.md R182). -/
def writeRows : List OpRow :=
  [ writeRow 0x0 .wrPra, writeRow 0x1 .wrPrb, writeRow 0x2 .wrDdra, writeRow 0x3 .wrDdrb,
    writeRow 0x4 .wrTalo, writeRow 0x5 .wrTahi, writeRow 0x6 .wrTblo, writeRow 0x7 .wrTbhi,
    writeRow 0x8 .wrTod10, writeRow 0x9 .wrTodsec, writeRow 0xA .wrTodmin, writeRow 0xB .wrTodhr,
    writeRow 0xC .wrSdr, writeRow 0xD .wrIcr, writeRow 0xE .wrCra, writeRow 0xF .wrCrb ]

/-- The operation map of bus accesses. -/
def opRows : List OpRow := readRows ++ writeRows

/-- Whether a row is the one for an operation word on an instance. -/
def rowMatches (c : Inst) (word : OpWord) (r : OpRow) : Bool :=
  word &&& r.mask == r.bits && (r.only == none || r.only == some c)

/-- The dispatch of 43_register_file.md R181 and R182: the row is found by `rw` and the folded offset; the operation gets the full
unfolded address. -/
def decodeBus (c : Inst) (page : Byte) (word : OpWord) (data : Byte) : Except DecodeError Instr :=
  match opRows.find? (rowMatches c word) with
  | some r => .ok (r.build c (addrOf page (word.extractLsb' 0 8)) data)
  | none => .error .noRow

/-- A byte as a row or column number 0 to 7 (30_encoding.md R92). -/
def keyIndex (v : Byte) : Option (Fin 8) := if h : v.toNat < 8 then some ⟨v.toNat, h⟩ else none

/-- A byte as a joystick number 1 or 2 (30_encoding.md R92). -/
def joystickNumber (v : Byte) : Option Joystick := if v = 1 then some .one else if v = 2 then some .two else none

end Machine

open Machine in
/-- What operation a request is, or why it is none. -/
def decode : Request → Except DecodeError Instr
  | .bus c page word data => decodeBus c page word data
  | .cycle c => .ok (.cycle c)
  | .todTick c => .ok (.todTick c)
  | .reset c => .ok (.reset c)
  | .hostKey .two _ _ _ => .error .hostKeyOnInstance2
  | .hostKey .one row column pressed =>
    match keyIndex row, keyIndex column with
    | none, _ => .error .keyRowOutOfRange
    | some _, none => .error .keyColumnOutOfRange
    | some r, some k => .ok (.hostKey r k pressed)
  | .hostJoy .two _ _ => .error .hostJoyOnInstance2
  | .hostJoy .one n v =>
    match joystickNumber n with
    | none => .error .joystickOutOfRange
    | some j => .ok (.hostJoy j v)
  | .hostSer .one _ => .error .hostSerOnInstance1
  | .hostSer .two v => .ok (.hostSer v)

namespace Machine

/-- The request of a bus read at an address: `rw` is 0 (30_encoding.md R80, R81); the data byte of a read is absent and stands as 0. -/
def readRequest (c : Inst) (addr : Addr) : Request := .bus c (pageOf addr) (0#1 ++ lowOf addr) 0

/-- The request of a bus write at an address: `rw` is 1 (30_encoding.md R80, R81). -/
def writeRequest (c : Inst) (addr : Addr) (v : Byte) : Request := .bus c (pageOf addr) (1#1 ++ lowOf addr) v

/-- A joystick number as the byte of 30_encoding.md R92. -/
def joystickByte : Joystick → Byte
  | .one => 1
  | .two => 2

end Machine

open Machine in
/-- The request that stands for an operation (30_encoding.md R80, R81, R92, R95). -/
def encode : Instr → Request
  | .rdPra1 a => readRequest .one a
  | .rdPra2 a => readRequest .two a
  | .rdPrb1 a => readRequest .one a
  | .rdPrb2 a => readRequest .two a
  | .rdDdra c a => readRequest c a
  | .rdDdrb c a => readRequest c a
  | .rdTalo c a => readRequest c a
  | .rdTahi c a => readRequest c a
  | .rdTblo c a => readRequest c a
  | .rdTbhi c a => readRequest c a
  | .rdTod10 c a => readRequest c a
  | .rdTodsec c a => readRequest c a
  | .rdTodmin c a => readRequest c a
  | .rdTodhr c a => readRequest c a
  | .rdSdr c a => readRequest c a
  | .rdIcr c a => readRequest c a
  | .rdCra c a => readRequest c a
  | .rdCrb c a => readRequest c a
  | .wrPra c a v => writeRequest c a v
  | .wrPrb c a v => writeRequest c a v
  | .wrDdra c a v => writeRequest c a v
  | .wrDdrb c a v => writeRequest c a v
  | .wrTalo c a v => writeRequest c a v
  | .wrTahi c a v => writeRequest c a v
  | .wrTblo c a v => writeRequest c a v
  | .wrTbhi c a v => writeRequest c a v
  | .wrTod10 c a v => writeRequest c a v
  | .wrTodsec c a v => writeRequest c a v
  | .wrTodmin c a v => writeRequest c a v
  | .wrTodhr c a v => writeRequest c a v
  | .wrSdr c a v => writeRequest c a v
  | .wrIcr c a v => writeRequest c a v
  | .wrCra c a v => writeRequest c a v
  | .wrCrb c a v => writeRequest c a v
  | .cycle c => .cycle c
  | .todTick c => .todTick c
  | .reset c => .reset c
  | .hostKey r k p => .hostKey .one (BitVec.ofNat 8 r.val) (BitVec.ofNat 8 k.val) p
  | .hostJoy n v => .hostJoy .one (joystickByte n) v
  | .hostSer v => .hostSer .two v

namespace Machine

/-- The page base of an instance under a configuration (20_memory.md R61). -/
def pageBaseOf (cfg : Config) : Inst → Addr
  | .one => cfg.pageBase1
  | .two => cfg.pageBase2

/-- The request in which the bare operation word `w` of the table reaches a chip. The word names neither instance nor page nor data
(30_encoding.md R81): it is given to instance 1, in its page, with data byte 0 (DESIGN CHOICE, notes/assumptions/4.md). -/
def tableRequest (cfg : Config) (w : Nat) : Request :=
  .bus .one (pageOf (pageBaseOf cfg .one)) (BitVec.ofNat 9 w) 0

/-! ### The spec's own abbreviations (00_scope.md R11, 30_encoding.md R96) -/

/-- `R<c> aa`: a read at low byte `aa` of the instance's page. -/
def notationR (cfg : Config) (c : Inst) (low : Byte) : Request :=
  .bus c (pageOf (pageBaseOf cfg c)) (0#1 ++ low) 0

/-- `W<c> aa vv`: a write of `v` at low byte `aa` of the instance's page. -/
def notationW (cfg : Config) (c : Inst) (low v : Byte) : Request :=
  .bus c (pageOf (pageBaseOf cfg c)) (1#1 ++ low) v

/-- The pseudo-operation `LATCH<c> A hhll`. -/
def pseudoLatchA (cfg : Config) (c : Inst) (latch : Count) : List Request :=
  [notationW cfg c 0x04 (lo8 latch), notationW cfg c 0x05 (hi8 latch)]

/-- The pseudo-operation `LATCH<c> B hhll`. -/
def pseudoLatchB (cfg : Config) (c : Inst) (latch : Count) : List Request :=
  [notationW cfg c 0x06 (lo8 latch), notationW cfg c 0x07 (hi8 latch)]

/-- The pseudo-operation `ACK<c>`; the byte it returns is discarded by whoever issues it. -/
def pseudoAck (cfg : Config) (c : Inst) : List Request := [notationR cfg c 0x0D]

end Machine

open Machine in
/-- The operation that the table's word `w` of `nbits` bits is. A row of no bits is a pin event, which has no encoding (30_encoding.md
R95); a number that does not fit the nine bits is no operation word (R81). -/
def decodeTableWord (nbits w : Nat) : Option Instr :=
  if nbits = 0 ∨ 512 ≤ w then none
  else match decode (tableRequest defaultConfig w) with
    | .ok i => some i
    | .error _ => none

end Sys2Proof
end

