-- ==== Sys2Proof/Machine/Chip.lean ====
section
/-! DEFINITION. The record of one chip (10_state.md R20 to R47) as plain data, its output events, and the record as a reset leaves it
(R49). -/

namespace Sys2Proof.Machine

/-- An output event (10_state.md R40 to R44, spelled as 30_encoding.md R97). -/
inductive Event where
  /-- `IRQ=1` or `IRQ=0`: `set_interrupt_request`, instance 1. -/
  | irq (level : Bool)
  /-- `NMI=1` or `NMI=0`: `set_non_maskable_interrupt`, instance 2. -/
  | nmi (level : Bool)
  /-- `BANK=b`: `notify_bank_select_bits`, instance 2. -/
  | bank (bits : BitVec 2)
  /-- `LIGHTPEN`: `trigger_light_pen_interrupt`, instance 1. -/
  | lightPen
  /-- `SHADOW[addr]=v`: the bus's `write_byte`, both instances. -/
  | shadow (addr : Addr) (v : Byte)
deriving DecidableEq, Repr

/-- The fields that both instances have (10_state.md R20). -/
structure Chip where
  /-- Timer A (`s.A`). -/
  timerA : Timer
  /-- Timer B (`s.B`). -/
  timerB : Timer
  /-- Enabled interrupt sources (10_state.md R27). -/
  mask : Byte
  /-- Latched sources and the summary bit (10_state.md R27). -/
  pending : Byte
  /-- The live clock (10_state.md R29). -/
  tod : TodTime
  /-- The alarm (10_state.md R30). -/
  alarm : TodTime
  /-- The freeze between a read of hours and a read of deciseconds (10_state.md R31). -/
  todHalted : Bool
  /-- `divisor_counter` (10_state.md R31). -/
  todDivisor : Byte
  /-- Output latch A (10_state.md R33). -/
  portA : Byte
  /-- Output latch B (10_state.md R33). -/
  portB : Byte
  /-- Direction register A (10_state.md R33). -/
  directionA : Byte
  /-- Direction register B (10_state.md R33). -/
  directionB : Byte
  /-- Serial data register (10_state.md R34). -/
  sdr : Byte
  /-- The level last driven on the interrupt line (10_state.md R41). -/
  intLine : Bool
  /-- The events emitted, oldest first (10_state.md R44). -/
  out : List Event
  /-- The fatal dispatch condition's address, once raised (10_state.md R47). -/
  fatal : Option Addr
deriving DecidableEq, Repr

/-! ### Reset values (10_state.md R49) -/

/-- A chip as constructed: the values of the reset record, the line released, an empty trace, no fault (70_reset_and_hazards.md
R271). -/
def chipAtReset (r : ResetRecord) : Chip where
  timerA := r.timerA
  timerB := r.timerB
  mask := r.mask
  pending := r.pending
  tod := r.tod
  alarm := r.alarm
  todHalted := r.todHalted
  todDivisor := r.todDivisor
  portA := r.portA
  portB := r.portB
  directionA := r.directionA
  directionB := r.directionB
  sdr := r.sdr
  intLine := false
  out := []
  fatal := none

end Sys2Proof.Machine
end

