-- ==== Sys2Proof/Machine/State.lean ====
section
/-! DEFINITION. The state of the machine: both chip instances with everything 10_state.md gives them, the parameters, and the
model's own fields for the environment's side of the boundary. Also the reasons a step can stop, and the state after reset. -/

namespace Sys2Proof.Machine

/-- The whole machine. The instance number `s.inst` of 10_state.md R20 is the field a chip stands in: `chip1` is instance 1 and
`chip2` instance 2 (notes/assumptions/27.md). -/
structure State where
  /-- The parameters (00_scope.md R13); no operation writes them (DESIGN CHOICE, notes/assumptions/2.md). -/
  cfg : Config
  /-- Instance 1. -/
  chip1 : Chip
  /-- The fields only instance 1 has. -/
  inst1 : Instance1
  /-- Instance 2. -/
  chip2 : Chip
  /-- `serial_bus_lines`, which only instance 2 has (10_state.md R36). -/
  serialBusLines : Byte
  /-- MODEL: the byte the last operation returned, absent when it returned none (DESIGN CHOICE, notes/assumptions/3.md). -/
  readData : Option Byte
  /-- MODEL: the operations the environment has still to issue, the next one first (DESIGN CHOICE, notes/assumptions/1.md). -/
  inbox : List Request
deriving DecidableEq, Repr

/-- There is no fault that stops the machine: the chip's one exception, `Fatal`, is a next state with `fatal` set (60_exceptions.md
R241, R242; notes/assumptions/20.md), and no data value faults (R244). The type is empty: a proof knows that no step faults. -/
inductive Fault where
deriving DecidableEq, Repr

/-- Why a step answers no next state. -/
inductive Refusal where
  /-- Raised by `exec` for an operation that has no meaning yet. Safe. No arm raises it: every operation has its meaning. -/
  | notModelled (mnemonic : String)
  /-- Raised by `step` when the next request is outside the domain of the chip it is put on (30_encoding.md R92,
  93_implementation_defined.md U21: "refuse"). Safe: the environment of a real chip cannot put it there. -/
  | undecodable (why : DecodeError)
deriving DecidableEq, Repr

/-- Both instances as constructed (70_reset_and_hazards.md R271: the reset state, the trace empty, no `LINE=0` event), the default
parameters, and no operation issued yet. -/
def State.reset : State where
  cfg := defaultConfig
  chip1 := chipAtReset defaultConfig.resetRecord
  inst1 := defaultConfig.resetRecord.inst1
  chip2 := chipAtReset defaultConfig.resetRecord
  serialBusLines := defaultConfig.resetRecord.serialBusLines
  readData := none
  inbox := []

end Sys2Proof.Machine
end

