-- ==== Sys2Proof/Machine/Ops.lean ====
section
/-! DEFINITION. The shared operations: emitting events, driving the interrupt line, reaching the chip of an instance, the fatal
exception (taking it is `raiseFatal`; there is no return from it), and the two bus entry points with their page check, shadow
write and stuck rule (43_register_file.md R181, R182; 60_exceptions.md R241, R242). -/

namespace Sys2Proof.Machine

/-! ### Events and the interrupt line -/

/-- `emit E` of 00_scope.md R10: the event goes at the end of the trace. -/
def Chip.emit (e : Event) (ch : Chip) : Chip := { ch with out := ch.out ++ [e] }

/-- `LINE=b`: `IRQ=b` on instance 1, `NMI=b` on instance 2 (41_interrupt_controller.md R143, 60_exceptions.md R246). -/
def lineEvent (c : Inst) (level : Bool) : Event :=
  match c with
  | .one => .irq level
  | .two => .nmi level

/-- `SignalLine()` (41_interrupt_controller.md R143). -/
def Chip.signalLine (c : Inst) (ch : Chip) : Chip := { ch.emit (lineEvent c true) with intLine := true }

/-- `ReleaseLine()` (41_interrupt_controller.md R143). -/
def Chip.releaseLine (c : Inst) (ch : Chip) : Chip := { ch.emit (lineEvent c false) with intLine := false }

/-! ### The chip of an instance -/

/-- The record of instance `c`. -/
def State.chip (s : State) (c : Inst) : Chip :=
  match c with
  | .one => s.chip1
  | .two => s.chip2

/-- The state with the record of instance `c` replaced; the other instance is not touched (20_memory.md R73). -/
def State.setChip (s : State) (c : Inst) (ch : Chip) : State :=
  match c with
  | .one => { s with chip1 := ch }
  | .two => { s with chip2 := ch }

/-- A change of instance `c`'s record alone. -/
def State.mapChip (s : State) (c : Inst) (f : Chip → Chip) : State := s.setChip c (f (s.chip c))

/-- An operation that returns no byte leaves none (notes/assumptions/3.md). -/
def State.noData (s : State) : State := { s with readData := none }

/-! ### The fatal exception (60_exceptions.md R241, R242) -/

/-- Whether an instance has met the fatal dispatch condition. -/
def State.stuck (s : State) (c : Inst) : Bool := (s.chip c).fatal.isSome

/-- Whether an address is in the page of an instance: `addr[15:8] == PAGE_BASE_c[15:8]` (20_memory.md R61, R63). -/
def State.inPage (s : State) (c : Inst) (addr : Addr) : Bool := pageOf addr == pageOf (pageBaseOf s.cfg c)

/-- `raise Fatal(addr)` (60_exceptions.md R241): the address is recorded; no other element changes, no event is emitted, no byte is
returned. -/
def State.raiseFatal (s : State) (c : Inst) (addr : Addr) : State :=
  (s.mapChip c fun ch => { ch with fatal := some addr }).noData

/-! ### Entry points -/

/-- `BusRead(c, addr)` around the operation `rd`, which gives the byte and the state it leaves (43_register_file.md R181). On a stuck
instance nothing changes and no byte is returned (60_exceptions.md R242); the page check comes before anything else (R241). -/
def State.busRead (s : State) (c : Inst) (addr : Addr) (rd : State → Byte × State) : Host.Outcome State Fault Refusal :=
  if s.stuck c then .next s.noData
  else if s.inPage c addr then .next { (rd s).2 with readData := some (rd s).1 }
  else .next (s.raiseFatal c addr)

/-- `BusWrite(c, addr, v)` around the operation `wr` (43_register_file.md R182): the page check, then `SHADOW[addr]=v` with the full
address and the byte as written (20_memory.md R68), then the operation. -/
def State.busWrite (s : State) (c : Inst) (addr : Addr) (v : Byte) (wr : State → State) :
    Host.Outcome State Fault Refusal :=
  if s.stuck c then .next s.noData
  else if s.inPage c addr then .next (wr (s.mapChip c (Chip.emit (.shadow addr v)))).noData
  else .next (s.raiseFatal c addr)

/-- A pin event on instance `c` (30_encoding.md R95): it cannot fail (60_exceptions.md R244), and a stuck instance ignores it (R242). -/
def State.pinEvent (s : State) (c : Inst) (ev : State → State) : Host.Outcome State Fault Refusal :=
  if s.stuck c then .next s.noData else .next (ev s).noData

/-- A bus read of instance `c` whose byte comes from the chip's own record and that changes nothing. -/
def State.plainRead (s : State) (c : Inst) (addr : Addr) (val : Chip → Byte) : Host.Outcome State Fault Refusal :=
  s.busRead c addr fun s' => (val (s'.chip c), s')

/-- A bus write of instance `c` that changes the chip's own record alone. -/
def State.chipWrite (s : State) (c : Inst) (addr : Addr) (v : Byte) (f : Chip → Chip) :
    Host.Outcome State Fault Refusal :=
  s.busWrite c addr v fun s' => s'.mapChip c f

end Sys2Proof.Machine
end

