-- ==== Sys2Proof/Machine/Flags.lean ====
section
/-! DEFINITION. Every flag computation of the chip: the source bits, the summary bit and the mask of the InterruptController
(41_interrupt_controller.md R141, R142, R144), what raising an interrupt does from the chip's side (60_exceptions.md R248) and its
acknowledge (R249). -/

namespace Sys2Proof.Machine

/-- Whether a source byte names an enabled source: `(mask & m) != 0` (41_interrupt_controller.md R141). -/
def Chip.enabled (ch : Chip) (m : Byte) : Bool := ch.mask &&& m != 0

/-- `Raise(m)`: the new record and the returned bool (41_interrupt_controller.md R141). -/
def Chip.raise (ch : Chip) (m : Byte) : Chip × Bool :=
  if ch.enabled m then ({ ch with pending := (ch.pending ||| m) ||| summaryBit }, true)
  else ({ ch with pending := ch.pending ||| m }, false)

/-- `if Raise(m) then SignalLine()`: what every raiser does (41_interrupt_controller.md R141, 60_exceptions.md R248). -/
def Chip.raiseAndSignal (c : Inst) (m : Byte) (ch : Chip) : Chip :=
  if (ch.raise m).2 then (ch.raise m).1.signalLine c else (ch.raise m).1

/-- `mask` after a write of `v` to the ICR (41_interrupt_controller.md R142). -/
def maskAfter (mask v : Byte) : Byte :=
  if icrSets v then mask ||| icrSources v else mask &&& ~~~(icrSources v)

/-- `WriteMask(v)` (41_interrupt_controller.md R142). -/
def Chip.writeMask (c : Inst) (v : Byte) (ch : Chip) : Chip :=
  let ch' := { ch with mask := maskAfter ch.mask v }
  if ch'.pending &&& ch'.mask &&& summaryGate != 0 then
    { ch' with pending := ch'.pending ||| summaryBit }.signalLine c
  else ch'

/-- The state change of `ReadAndClear()`; the byte it returns is `pending` before it (41_interrupt_controller.md R144). It is the
acknowledge of 60_exceptions.md R249. -/
def Chip.acknowledge (c : Inst) (ch : Chip) : Chip := { ch with pending := 0x00 }.releaseLine c

end Sys2Proof.Machine
end

