-- ==== Sys2Proof/Machine/InterruptRegs.lean ====
section
/-! DEFINITION. The bus operations at offset 0x0D (41_interrupt_controller.md R145, R146) and at 0x0C, the serial data register
(43_register_file.md R206, R207). -/

namespace Sys2Proof.Machine

/-- `RD_ICR` (41_interrupt_controller.md R145): `ReadAndClear()` (R144). -/
def execRdIcr (c : Inst) (addr : Addr) (s : State) : Host.Outcome State Fault Refusal :=
  s.busRead c addr fun s' => ((s'.chip c).pending, s'.mapChip c (Chip.acknowledge c))

/-- `WR_ICR` (41_interrupt_controller.md R146): `WriteMask(v)` (R142). -/
def execWrIcr (c : Inst) (addr : Addr) (v : Byte) (s : State) : Host.Outcome State Fault Refusal :=
  s.chipWrite c addr v (Chip.writeMask c v)

/-- `RD_SDR` (43_register_file.md R206). -/
def execRdSdr (c : Inst) (addr : Addr) (s : State) : Host.Outcome State Fault Refusal :=
  s.plainRead c addr fun ch => ch.sdr

/-- What a write does to the serial data register: the byte is stored; under the alternative `SDR_WRITE_RAISES` the serial source is
raised as every source is (PRESUMED, notes/assumptions/15.md). -/
def Chip.writeSdr (cfg : Config) (c : Inst) (v : Byte) (ch : Chip) : Chip :=
  if cfg.sdrWriteRaises then { ch with sdr := v }.raiseAndSignal c srcSerial else { ch with sdr := v }

/-- `WR_SDR` (43_register_file.md R207). -/
def execWrSdr (c : Inst) (addr : Addr) (v : Byte) (s : State) : Host.Outcome State Fault Refusal :=
  s.chipWrite c addr v (Chip.writeSdr s.cfg c v)

end Sys2Proof.Machine
end

