-- ==== Sys2Proof/Machine/TimerUnit.lean ====
section
/-! DEFINITION. TimerUnit, the countdown state machine (40_timer.md R110 to R118), and the update and delivery steps that run
both timers of a chip (44_chip_cycle.md R230 to R232). A timer's step reads and writes its own record and the chip's `pending`
byte, so it works on the pair of the two. -/

namespace Sys2Proof.Machine

/-- A timer together with the chip's `pending` register, which the interrupt-fire action writes (40_timer.md R110). -/
structure TimerView where
  timer : Timer
  pending : Byte
deriving DecidableEq, Repr

/-- `FireInterrupt(T)` (40_timer.md R115); `src` is the timer's source bit. The one-shot test reads the effective control byte. -/
def TimerView.fire (src : Byte) (x : TimerView) : TimerView :=
  let t := { x.timer with value := x.timer.latch, interruptPendingNextCycle := true }
  let t := if oneShotBit t.control then
      { t with control := clearBit t.control runPos, pendingControl := clearBit t.pendingControl runPos, state := .loadStop }
    else { t with state := .loadCount }
  { timer := t, pending := x.pending ||| src }

/-- Whether the count input is active this cycle (40_timer.md R112). -/
def countInputActive (t : Timer) (taUnderflow : Bool) : Bool :=
  t.countsSystemClock || (t.countsOtherTimerUnderflow && taUnderflow)

/-- Whether a countdown step from `value` underflows: 0 before or after the decrement (40_timer.md R113). -/
def underflows (value : Count) : Bool := value == 0 || value - 1 == 0

/-- `CountdownStep(T, ta_underflow)` (40_timer.md R113); the decrement wraps modulo 2^16 (DESIGN CHOICE D10, notes/assumptions/24.md).
`fires` is false only for the `suppress` alternative of R114, which leaves the decremented value and still sets the flag. -/
def TimerView.countdown (src : Byte) (taUnderflow fires : Bool) (x : TimerView) : TimerView :=
  if countInputActive x.timer taUnderflow then
    let y : TimerView := { x with timer := { x.timer with value := x.timer.value - 1 } }
    if underflows x.timer.value then
      let z := if fires then y.fire src else y
      { z with timer := { z.timer with underflowedThisCycle := true } }
    else y
  else x

/-- The state of a timer set. -/
def TimerView.goTo (st : TimerState) (x : TimerView) : TimerView := { x with timer := { x.timer with state := st } }

/-- `value <- latch` (40_timer.md R111). -/
def TimerView.reload (x : TimerView) : TimerView := { x with timer := { x.timer with value := x.timer.latch } }

/-- Row `CountStop` of 40_timer.md R111 under each value of `COUNTSTOP_UNDERFLOW` (R114). -/
def TimerView.countStopRow (opt : CountStopUnderflow) (src : Byte) (taUnderflow : Bool) (x : TimerView) : TimerView :=
  match opt with
  | .fireAndStop => (x.countdown src taUnderflow true).goTo .stop
  | .fireAndFollow => (x.goTo .stop).countdown src taUnderflow true
  | .suppress => (x.countdown src taUnderflow false).goTo .stop

/-- `StateAction(T, ta_underflow)` (40_timer.md R111, with the resolution of 90_conflicts.md C3). -/
def TimerView.stateAction (cfg : Config) (src : Byte) (taUnderflow : Bool) (x : TimerView) : TimerView :=
  match x.timer.state with
  | .stop => x
  | .waitCount => x.goTo .count
  | .loadStop => (x.goTo .stop).reload
  | .loadCount => (x.goTo .count).reload
  | .loadWaitCount =>
    if x.timer.value = 1 then (x.goTo .waitCount).fire src else (x.goTo .waitCount).reload
  | .count => x.countdown src taUnderflow true
  | .countStop => x.countStopRow cfg.countStopUnderflow src taUnderflow

/-- Whether a bit column of the idle table admits a bit ("-" is either value). -/
def columnAdmits (col : Option Bool) (b : Bool) : Bool := col == none || col == some b

/-- Whether a row of the idle table is the one for a state and a staged byte. -/
def idleRowMatches (st : TimerState) (staged : Byte) (r : IdleRow) : Bool :=
  r.states.contains st && columnAdmits r.run (runBit staged) && columnAdmits r.load (forceLoadBit staged)
    && columnAdmits r.oneShot (oneShotBit staged)

/-- `IdleTable(state, pending_control)`: the new state, and whether the staged run bit is cleared (40_timer.md R117). A table with no
row for the case leaves the state as it is. -/
def idleLookup (table : List IdleRow) (st : TimerState) (staged : Byte) : TimerState × Bool :=
  match table.find? (idleRowMatches st staged) with
  | some r => (r.newState.getD st, r.clearsRun)
  | none => (st, false)

/-- The effective control byte that a staged byte becomes (40_timer.md R118). -/
def appliedControl (cfg : Config) (staged : Byte) : Byte :=
  if cfg.controlKeepsForceLoad then staged else staged &&& 0xEF

/-- `IdleStep(T)` (40_timer.md R116 to R118). -/
def Timer.idleStep (cfg : Config) (t : Timer) : Timer :=
  if t.pendingValid then
    let hit := idleLookup cfg.idleTable t.state t.pendingControl
    let staged := if hit.2 then clearBit t.pendingControl runPos else t.pendingControl
    { t with state := hit.1, pendingControl := staged, control := appliedControl cfg staged, pendingValid := false }
  else t

/-- `TimerStep(T, ta_underflow)` (40_timer.md R110): clear the flag, act, then the idle step. -/
def TimerView.step (cfg : Config) (src : Byte) (taUnderflow : Bool) (x : TimerView) : TimerView :=
  let y : TimerView := { x with timer := { x.timer with underflowedThisCycle := false } }
  let z := y.stateAction cfg src taUnderflow
  { z with timer := z.timer.idleStep cfg }

/-- `Update()` (44_chip_cycle.md R231): timer A with its cascade input forced off, then timer B on A's underflow of this cycle. -/
def Chip.update (cfg : Config) (ch : Chip) : Chip :=
  let a := TimerView.step cfg srcTimerA false { timer := ch.timerA, pending := ch.pending }
  let b := TimerView.step cfg srcTimerB a.timer.underflowedThisCycle { timer := ch.timerB, pending := a.pending }
  { ch with timerA := a.timer, timerB := b.timer, pending := b.pending }

/-- The delivery of timer A's flag (44_chip_cycle.md R232). -/
def Chip.deliverA (c : Inst) (ch : Chip) : Chip :=
  if ch.timerA.interruptPendingNextCycle then
    let ch' := ch.raiseAndSignal c srcTimerA
    { ch' with timerA := { ch'.timerA with interruptPendingNextCycle := false } }
  else ch

/-- The delivery of timer B's flag; with `TIMER_B_DELIVERY` false the flag is cleared and nothing is raised (44_chip_cycle.md R232). -/
def Chip.deliverB (cfg : Config) (c : Inst) (ch : Chip) : Chip :=
  if ch.timerB.interruptPendingNextCycle then
    let ch' := if cfg.timerBDelivery then ch.raiseAndSignal c srcTimerB else ch
    { ch' with timerB := { ch'.timerB with interruptPendingNextCycle := false } }
  else ch

/-- `ProcessIrq()` (44_chip_cycle.md R232): timer A is delivered before timer B. -/
def Chip.processIrq (cfg : Config) (c : Inst) (ch : Chip) : Chip := (ch.deliverA c).deliverB cfg c

/-- `ChipCycle(c)` (44_chip_cycle.md R230). -/
def Chip.cycle (cfg : Config) (c : Inst) (ch : Chip) : Chip := (ch.update cfg).processIrq cfg c

end Sys2Proof.Machine
end

