-- ==== Sys2Proof/Machine/Pins.lean ====
section
/-! DEFINITION. The pin events CYCLE (44_chip_cycle.md R230) and RESET (70_reset_and_hazards.md R270), and the host inputs HOSTKEY,
HOSTJOY and HOSTSER (43_register_file.md R213 to R215). TODTICK is in Machine/TimeOfDay.lean. -/

namespace Sys2Proof.Machine

/-- `CYCLE`: `ChipCycle(c)` (44_chip_cycle.md R230). -/
def execCycle (c : Inst) (s : State) : Host.Outcome State Fault Refusal :=
  s.pinEvent c fun s' => s'.mapChip c (Chip.cycle s'.cfg c)

/-- The chip's own part of `Reset(c)` (70_reset_and_hazards.md R270): every element at its reset value but the trace and `fatal`, then
`ReleaseLine()`. -/
def Chip.resetPart (cfg : Config) (c : Inst) (ch : Chip) : Chip :=
  { chipAtReset cfg.resetRecord with out := ch.out, fatal := ch.fatal }.releaseLine c

/-- The instance-only fields of `Reset(c)`. -/
def State.resetInputs (s : State) (c : Inst) : State :=
  match c with
  | .one => { s with inst1 := s.cfg.resetRecord.inst1 }
  | .two => { s with serialBusLines := s.cfg.resetRecord.serialBusLines }

/-- `RESET`: `Reset(c)` (70_reset_and_hazards.md R270). -/
def execReset (c : Inst) (s : State) : Host.Outcome State Fault Refusal :=
  s.pinEvent c fun s' => (s'.mapChip c (Chip.resetPart s'.cfg c)).resetInputs c

/-- A bit of a byte set to a value: `x[i] <- b` (00_scope.md R10). -/
def putBit (v : Byte) (i : Fin 8) (b : Bool) : Byte :=
  if b then v ||| (1#8 <<< i.val) else clearBit v i.val

/-- `HostSetKey(r, k, pressed)` on the two tables (43_register_file.md R213): 0 while the key is down. -/
def Instance1.setKey (r k : Fin 8) (pressed : Bool) (x : Instance1) : Instance1 :=
  { x with
    keyMatrix := x.keyMatrix.set r (putBit x.keyMatrix[r] k (!pressed))
    reverseKeyMatrix := x.reverseKeyMatrix.set k (putBit x.reverseKeyMatrix[k] r (!pressed)) }

/-- `HOSTKEY` (43_register_file.md R213), instance 1. -/
def execHostKey (row column : Fin 8) (pressed : Bool) (s : State) : Host.Outcome State Fault Refusal :=
  s.pinEvent .one fun s' => { s' with inst1 := s'.inst1.setKey row column pressed }

/-- `HostSetJoystick(n, v)` on the joystick bytes (43_register_file.md R214). -/
def Instance1.setJoystick (n : Joystick) (v : Byte) (x : Instance1) : Instance1 :=
  match n with
  | .one => { x with joystick1 := v }
  | .two => { x with joystick2 := v }

/-- `HOSTJOY` (43_register_file.md R214), instance 1. -/
def execHostJoy (n : Joystick) (v : Byte) (s : State) : Host.Outcome State Fault Refusal :=
  s.pinEvent .one fun s' => { s' with inst1 := s'.inst1.setJoystick n v }

/-- `HOSTSER` (43_register_file.md R215), instance 2. -/
def execHostSer (v : Byte) (s : State) : Host.Outcome State Fault Refusal :=
  s.pinEvent .two fun s' => { s' with serialBusLines := v }

end Sys2Proof.Machine
end

