-- ==== Sys2Proof/Machine/Ports.lean ====
section
/-! DEFINITION. Ports and direction registers (43_register_file.md R184 to R197): pin levels, keyboard, joystick and serial-bus
readback, the light-pen check of instance 1 and the bank notification of instance 2. -/

namespace Sys2Proof.Machine

/-! ### Pin levels (43_register_file.md R184; PRESUMED D23, notes/assumptions/18.md) -/

/-- `PinsA()`: the latch where the direction bit is 1, high where it is 0. -/
def Chip.pinsA (ch : Chip) : Byte := ch.portA ||| ~~~ch.directionA

/-- `PinsB()`. -/
def Chip.pinsB (ch : Chip) : Byte := ch.portB ||| ~~~ch.directionB

/-! ### Keyboard and joystick readback, instance 1 (43_register_file.md R185, R186; PRESUMED D23, notes/assumptions/18.md) -/

/-- The inverted-AND reduction: every line of `tst` that is low ANDs its table entry into `ret`. -/
def scanReduce (tst : Byte) (table : Vector Byte 8) (ret : Byte) : Byte :=
  ([0, 1, 2, 3, 4, 5, 6, 7] : List (Fin 8)).foldl (fun r i => if tst.getLsbD i.val then r else r &&& table[i]) ret

/-- The byte of `RD_PRA_1` (43_register_file.md R185). -/
def readPortA1 (ch : Chip) (k : Instance1) : Byte :=
  scanReduce (ch.pinsB &&& k.joystick1) k.reverseKeyMatrix ch.pinsA &&& k.joystick2

/-- The byte of `RD_PRB_1` (43_register_file.md R186). -/
def readPortB1 (ch : Chip) (k : Instance1) : Byte :=
  (scanReduce (ch.pinsA &&& k.joystick2) k.keyMatrix (~~~ch.directionB) ||| (ch.portB &&& ch.directionB)) &&& k.joystick1

/-- The byte of `RD_PRA_2` (43_register_file.md R188; PRESUMED D25, notes/assumptions/17.md). -/
def readPortA2 (ch : Chip) (serial : Byte) : Byte := (ch.pinsA &&& serialPinBits) ||| (serial &&& serialInputBits)

/-! ### Side effects of port writes -/

/-- Whether a change of the light-pen bit from `old` to `new` triggers (43_register_file.md R196, `LIGHTPEN_EDGE`). -/
def lightPenTriggers (edge : LightPenEdge) (old new : Byte) : Bool :=
  match edge with
  | .both => new != old
  | .falling => new == 0 && old == lightPenLine

/-- `LightPenCheck()`, instance 1 (43_register_file.md R196). -/
def State.lightPenCheck (s : State) : State :=
  let b := s.chip1.pinsB &&& lightPenLine
  let s' := if lightPenTriggers s.cfg.lightPenEdge s.inst1.previousLightPenLine b then
      s.mapChip .one (Chip.emit .lightPen) else s
  { s' with inst1 := { s'.inst1 with previousLightPenLine := b } }

/-- The bank byte's two bits: port A pins 1:0 inverted (43_register_file.md R197). -/
def Chip.bankSelect (ch : Chip) : BitVec 2 := (~~~ch.pinsA &&& bankBits).setWidth 2

/-- `BankNotify()`, instance 2 (43_register_file.md R197): sent on every write, changed or not. -/
def State.bankNotify (s : State) : State := s.mapChip .two (Chip.emit (.bank s.chip2.bankSelect))

/-- What a write of port A or direction A does beyond storing (43_register_file.md R192, R194). -/
def State.afterPortA (s : State) (c : Inst) : State :=
  match c with
  | .one => s
  | .two => s.bankNotify

/-- What a write of port B or direction B does beyond storing (43_register_file.md R193, R195). -/
def State.afterPortB (s : State) (c : Inst) : State :=
  match c with
  | .one => s.lightPenCheck
  | .two => s

/-! ### Bus operations -/

/-- `RD_PRA_1` (43_register_file.md R185). -/
def execRdPra1 (addr : Addr) (s : State) : Host.Outcome State Fault Refusal :=
  s.busRead .one addr fun s' => (readPortA1 s'.chip1 s'.inst1, s')

/-- `RD_PRA_2` (43_register_file.md R188). -/
def execRdPra2 (addr : Addr) (s : State) : Host.Outcome State Fault Refusal :=
  s.busRead .two addr fun s' => (readPortA2 s'.chip2 s'.serialBusLines, s')

/-- `RD_PRB_1` (43_register_file.md R186). -/
def execRdPrb1 (addr : Addr) (s : State) : Host.Outcome State Fault Refusal :=
  s.busRead .one addr fun s' => (readPortB1 s'.chip1 s'.inst1, s')

/-- `RD_PRB_2` (43_register_file.md R189). -/
def execRdPrb2 (addr : Addr) (s : State) : Host.Outcome State Fault Refusal :=
  s.busRead .two addr fun s' => (s'.chip2.pinsB, s')

/-- `RD_DDRA` (43_register_file.md R190). -/
def execRdDdra (c : Inst) (addr : Addr) (s : State) : Host.Outcome State Fault Refusal :=
  s.plainRead c addr fun ch => ch.directionA

/-- `RD_DDRB` (43_register_file.md R191). -/
def execRdDdrb (c : Inst) (addr : Addr) (s : State) : Host.Outcome State Fault Refusal :=
  s.plainRead c addr fun ch => ch.directionB

/-- `WR_PRA` (43_register_file.md R192). -/
def execWrPra (c : Inst) (addr : Addr) (v : Byte) (s : State) : Host.Outcome State Fault Refusal :=
  s.busWrite c addr v fun s' => (s'.mapChip c fun ch => { ch with portA := v }).afterPortA c

/-- `WR_PRB` (43_register_file.md R193). -/
def execWrPrb (c : Inst) (addr : Addr) (v : Byte) (s : State) : Host.Outcome State Fault Refusal :=
  s.busWrite c addr v fun s' => (s'.mapChip c fun ch => { ch with portB := v }).afterPortB c

/-- `WR_DDRA` (43_register_file.md R194). -/
def execWrDdra (c : Inst) (addr : Addr) (v : Byte) (s : State) : Host.Outcome State Fault Refusal :=
  s.busWrite c addr v fun s' => (s'.mapChip c fun ch => { ch with directionA := v }).afterPortA c

/-- `WR_DDRB` (43_register_file.md R195). -/
def execWrDdrb (c : Inst) (addr : Addr) (v : Byte) (s : State) : Host.Outcome State Fault Refusal :=
  s.busWrite c addr v fun s' => (s'.mapChip c fun ch => { ch with directionB := v }).afterPortB c

end Sys2Proof.Machine
end

