-- ==== Sys2Proof/Machine/TimeOfDay.lean ====
section
/-! DEFINITION. TimeOfDayClock (42_tod.md): the BCD advance, the alarm comparator, the tick, and the eight bus operations at
offsets 0x08 to 0x0B. -/

namespace Sys2Proof.Machine

/-! ### The advance (42_tod.md R158 to R162) -/

/-- One step of a digit that rolls at ten: the new digit and the carry, from the digit plus one (42_tod.md R159). -/
def digitCarry (d : Nat) : Nat × Nat := if d + 1 > 9 then (0, 1) else (d + 1, 0)

/-- Deciseconds plus one: the new byte and whether it carries (42_tod.md R158). -/
def nextDeciseconds (v : Byte) : Byte × Bool :=
  if unitsDigit v + 1 ≤ 9 then (BitVec.ofNat 8 (unitsDigit v + 1), false) else (0x00, true)

/-- Seconds or minutes plus one: the new byte and whether it carries (42_tod.md R159, R160). -/
def nextSixty (v : Byte) : Byte × Bool :=
  let lo := (digitCarry (unitsDigit v)).1
  let hi := tensDigit v + (digitCarry (unitsDigit v)).2
  if hi ≤ 5 then (BitVec.ofNat 8 (hi * 16 + lo), false) else (0x00, true)

/-- The low five bits of hours plus one in BCD: `h` of 42_tod.md R161. -/
def hourCount (v : Byte) : Nat :=
  (hourTens v + (digitCarry (unitsDigit v)).2) * 16 + (digitCarry (unitsDigit v)).1

/-- Hours plus one under `zero_to_eleven` (42_tod.md R161, R162). -/
def nextHourZero (v : Byte) : Byte :=
  if hourCount v > 0x11 then withPmFlag (!pmFlag v) 0x00 else withPmFlag (pmFlag v) (hourCount v)

/-- Hours plus one under the alternative `one_to_twelve` (42_tod.md R162): 0x12 is followed by 0x01, and bit 7 toggles on the step from
0x11 to 0x12. Hours 0x01 to 0x10 step, and 0x00, 0x19 and 0x1F too, as under the default: vector set V14 of 95_test_vectors.md names
the rows the alternative changes, and those are not among them (for bit 7 set: DEDUCED, notes/assumptions/13.md). What follows any
other byte is not stated: a free value inside the byte's format (DESIGN CHOICE, notes/assumptions/13.md). -/
def nextHourOne (v : Byte) : Byte :=
  let low := v.toNat % 32
  if low = 0x11 then withPmFlag (!pmFlag v) 0x12
  else if low = 0x12 then withPmFlag (pmFlag v) 0x01
  else if low = 0x19 ∨ low = 0x1F ∨ (low < 0x11 ∧ low % 16 ≤ 9) then nextHourZero v
  else Config.freeHour v &&& 0x9F

/-- `AdvanceHours()` (42_tod.md R161, R162). -/
def nextHour (style : HourStyle) (v : Byte) : Byte :=
  match style with
  | .zeroToEleven => nextHourZero v
  | .oneToTwelve => nextHourOne v

/-- `TodAdvance()` (42_tod.md R158 to R161) on the four bytes of the clock. -/
def TodTime.advance (style : HourStyle) (t : TodTime) : TodTime :=
  let d := nextDeciseconds t.deciseconds
  if d.2 then
    let sec := nextSixty t.seconds
    if sec.2 then
      let min := nextSixty t.minutes
      if min.2 then
        { hours := nextHour style t.hours, minutes := min.1, seconds := sec.1, deciseconds := d.1 }
      else { t with minutes := min.1, seconds := sec.1, deciseconds := d.1 }
    else { t with seconds := sec.1, deciseconds := d.1 }
  else { t with deciseconds := d.1 }

/-! ### Alarm and tick (42_tod.md R156, R157, R167, R168) -/

/-- `AlarmCompare()` (42_tod.md R167): whole bytes, all four fields. -/
def Chip.alarmCompare (c : Inst) (ch : Chip) : Chip :=
  if ch.tod = ch.alarm then ch.raiseAndSignal c srcAlarm else ch

/-- The divisor reload selected by the effective control byte of timer A (42_tod.md R157). -/
def todReload (cfg : Config) (ch : Chip) : Byte :=
  if tod50Hz ch.timerA.control then cfg.todDivBitSet else cfg.todDivBitClear

/-- The divisor after the decrement of a tick; 0 is not decremented (42_tod.md R156, R157). -/
def tickedDivisor (d : Byte) : Byte := if d != 0 then d - 1 else d

/-- `TodTick(c)` (42_tod.md R156, R168). -/
def Chip.todTick (cfg : Config) (c : Inst) (ch : Chip) : Chip :=
  if ch.todHalted then ch
  else if tickedDivisor ch.todDivisor = 0 then
    { ch with todDivisor := todReload cfg ch, tod := ch.tod.advance cfg.todHourStyle }.alarmCompare c
  else { ch with todDivisor := tickedDivisor ch.todDivisor }

/-! ### Writes: the common procedure (42_tod.md R166) -/

/-- A field of the four bytes replaced. -/
def TodTime.put (t : TodTime) (f : TodField) (v : Byte) : TodTime :=
  match f with
  | .deciseconds => { t with deciseconds := v }
  | .seconds => { t with seconds := v }
  | .minutes => { t with minutes := v }
  | .hours => { t with hours := v }

/-- `TodWrite` (42_tod.md R166): the masked byte goes to the alarm when `ALARM_SELECT` of timer B's effective control byte is set, to
the live clock otherwise. -/
def Chip.todWrite (masks : TodMasks) (f : TodField) (v : Byte) (ch : Chip) : Chip :=
  if alarmSelect ch.timerB.control then { ch with alarm := ch.alarm.put f (v &&& todWriteMask masks f) }
  else { ch with tod := ch.tod.put f (v &&& todWriteMask masks f) }

/-! ### Bus operations -/

/-- `RD_TOD10` (42_tod.md R163): returns deciseconds and clears the halt. -/
def execRdTod10 (c : Inst) (addr : Addr) (s : State) : Host.Outcome State Fault Refusal :=
  s.busRead c addr fun s' => ((s'.chip c).tod.deciseconds, s'.mapChip c fun ch => { ch with todHalted := false })

/-- `RD_TODSEC` (42_tod.md R165). -/
def execRdTodsec (c : Inst) (addr : Addr) (s : State) : Host.Outcome State Fault Refusal :=
  s.plainRead c addr fun ch => ch.tod.seconds

/-- `RD_TODMIN` (42_tod.md R171). -/
def execRdTodmin (c : Inst) (addr : Addr) (s : State) : Host.Outcome State Fault Refusal :=
  s.plainRead c addr fun ch => ch.tod.minutes

/-- `RD_TODHR` (42_tod.md R164): returns hours and sets the halt. -/
def execRdTodhr (c : Inst) (addr : Addr) (s : State) : Host.Outcome State Fault Refusal :=
  s.busRead c addr fun s' => ((s'.chip c).tod.hours, s'.mapChip c fun ch => { ch with todHalted := true })

/-- `WR_TOD10` (42_tod.md R175). -/
def execWrTod10 (c : Inst) (addr : Addr) (v : Byte) (s : State) : Host.Outcome State Fault Refusal :=
  s.chipWrite c addr v (Chip.todWrite s.cfg.todWriteMasks .deciseconds v)

/-- `WR_TODSEC` (42_tod.md R172). -/
def execWrTodsec (c : Inst) (addr : Addr) (v : Byte) (s : State) : Host.Outcome State Fault Refusal :=
  s.chipWrite c addr v (Chip.todWrite s.cfg.todWriteMasks .seconds v)

/-- `WR_TODMIN` (42_tod.md R173). -/
def execWrTodmin (c : Inst) (addr : Addr) (v : Byte) (s : State) : Host.Outcome State Fault Refusal :=
  s.chipWrite c addr v (Chip.todWrite s.cfg.todWriteMasks .minutes v)

/-- `WR_TODHR` (42_tod.md R174). -/
def execWrTodhr (c : Inst) (addr : Addr) (v : Byte) (s : State) : Host.Outcome State Fault Refusal :=
  s.chipWrite c addr v (Chip.todWrite s.cfg.todWriteMasks .hours v)

/-- `TODTICK` (42_tod.md R156). -/
def execTodTick (c : Inst) (s : State) : Host.Outcome State Fault Refusal :=
  s.pinEvent c fun s' => s'.mapChip c (Chip.todTick s'.cfg c)

end Sys2Proof.Machine
end

