-- ==== Sys2Proof/Machine/TimerRegs.lean ====
section
/-! DEFINITION. The bus operations of the two timers: value reads, latch writes, control reads and writes (43_register_file.md R198
to R205, R208 to R212). -/

namespace Sys2Proof.Machine

/-! ### What the writes do to a timer -/

/-- A low latch byte: the latch alone (43_register_file.md R202, R204). -/
def Timer.writeLatchLo (v : Byte) (t : Timer) : Timer := { t with latch := withLo8 t.latch v }

/-- A high latch byte: the latch, and the live value while the run bit of the effective control byte is clear (43_register_file.md R203,
R205; DESIGN CHOICE D13, notes/assumptions/24.md). -/
def Timer.writeLatchHi (v : Byte) (t : Timer) : Timer :=
  if runBit t.control then { t with latch := withHi8 t.latch v }
  else { t with latch := withHi8 t.latch v, value := withHi8 t.latch v }

/-- `StageControl(T, v)` (43_register_file.md R212). -/
def Timer.stageControl (v : Byte) (t : Timer) : Timer := { t with pendingControl := v, pendingValid := true }

/-- `WR_CRA` on timer A: stage, and select the input at once (43_register_file.md R210; 30_encoding.md R88). -/
def Timer.writeControlA (v : Byte) (t : Timer) : Timer :=
  { t.stageControl v with countsSystemClock := !inModeA v, countsOtherTimerUnderflow := false }

/-- `WR_CRB` on timer B: stage, and select the input at once (43_register_file.md R211; 30_encoding.md R89). -/
def Timer.writeControlB (v : Byte) (t : Timer) : Timer :=
  { t.stageControl v with countsSystemClock := inModeB v == 0b00, countsOtherTimerUnderflow := inModeB v == 0b10 }

/-! ### Bus operations -/

/-- `RD_TALO` (43_register_file.md R198). -/
def execRdTalo (c : Inst) (addr : Addr) (s : State) : Host.Outcome State Fault Refusal :=
  s.plainRead c addr fun ch => lo8 ch.timerA.value

/-- `RD_TAHI` (43_register_file.md R199). -/
def execRdTahi (c : Inst) (addr : Addr) (s : State) : Host.Outcome State Fault Refusal :=
  s.plainRead c addr fun ch => hi8 ch.timerA.value

/-- `RD_TBLO` (43_register_file.md R200). -/
def execRdTblo (c : Inst) (addr : Addr) (s : State) : Host.Outcome State Fault Refusal :=
  s.plainRead c addr fun ch => lo8 ch.timerB.value

/-- `RD_TBHI` (43_register_file.md R201). -/
def execRdTbhi (c : Inst) (addr : Addr) (s : State) : Host.Outcome State Fault Refusal :=
  s.plainRead c addr fun ch => hi8 ch.timerB.value

/-- `WR_TALO` (43_register_file.md R202). -/
def execWrTalo (c : Inst) (addr : Addr) (v : Byte) (s : State) : Host.Outcome State Fault Refusal :=
  s.chipWrite c addr v fun ch => { ch with timerA := ch.timerA.writeLatchLo v }

/-- `WR_TAHI` (43_register_file.md R203). -/
def execWrTahi (c : Inst) (addr : Addr) (v : Byte) (s : State) : Host.Outcome State Fault Refusal :=
  s.chipWrite c addr v fun ch => { ch with timerA := ch.timerA.writeLatchHi v }

/-- `WR_TBLO` (43_register_file.md R204). -/
def execWrTblo (c : Inst) (addr : Addr) (v : Byte) (s : State) : Host.Outcome State Fault Refusal :=
  s.chipWrite c addr v fun ch => { ch with timerB := ch.timerB.writeLatchLo v }

/-- `WR_TBHI` (43_register_file.md R205). -/
def execWrTbhi (c : Inst) (addr : Addr) (v : Byte) (s : State) : Host.Outcome State Fault Refusal :=
  s.chipWrite c addr v fun ch => { ch with timerB := ch.timerB.writeLatchHi v }

/-- `RD_CRA` (43_register_file.md R208): the effective byte. -/
def execRdCra (c : Inst) (addr : Addr) (s : State) : Host.Outcome State Fault Refusal :=
  s.plainRead c addr fun ch => ch.timerA.control

/-- `RD_CRB` (43_register_file.md R209): the effective byte. -/
def execRdCrb (c : Inst) (addr : Addr) (s : State) : Host.Outcome State Fault Refusal :=
  s.plainRead c addr fun ch => ch.timerB.control

/-- `WR_CRA` (43_register_file.md R210). -/
def execWrCra (c : Inst) (addr : Addr) (v : Byte) (s : State) : Host.Outcome State Fault Refusal :=
  s.chipWrite c addr v fun ch => { ch with timerA := ch.timerA.writeControlA v }

/-- `WR_CRB` (43_register_file.md R211). -/
def execWrCrb (c : Inst) (addr : Addr) (v : Byte) (s : State) : Host.Outcome State Fault Refusal :=
  s.chipWrite c addr v fun ch => { ch with timerB := ch.timerB.writeControlB v }

end Sys2Proof.Machine
end

