-- ==== Sys2Proof/Machine/Dispatch.lean ====
section
/-! DEFINITION. One arm per operation, each one direct call of its meaning (43_register_file.md R181, R182; 00_scope.md R8). -/

namespace Sys2Proof.Machine

def exec (i : Instr) (s : State) : Host.Outcome State Fault Refusal :=
  match i with
  | .rdPra1 addr => Sys2Proof.Machine.execRdPra1 addr s
  | .rdPra2 addr => Sys2Proof.Machine.execRdPra2 addr s
  | .rdPrb1 addr => Sys2Proof.Machine.execRdPrb1 addr s
  | .rdPrb2 addr => Sys2Proof.Machine.execRdPrb2 addr s
  | .rdDdra c addr => Sys2Proof.Machine.execRdDdra c addr s
  | .rdDdrb c addr => Sys2Proof.Machine.execRdDdrb c addr s
  | .rdTalo c addr => Sys2Proof.Machine.execRdTalo c addr s
  | .rdTahi c addr => Sys2Proof.Machine.execRdTahi c addr s
  | .rdTblo c addr => Sys2Proof.Machine.execRdTblo c addr s
  | .rdTbhi c addr => Sys2Proof.Machine.execRdTbhi c addr s
  | .rdTod10 c addr => Sys2Proof.Machine.execRdTod10 c addr s
  | .rdTodsec c addr => Sys2Proof.Machine.execRdTodsec c addr s
  | .rdTodmin c addr => Sys2Proof.Machine.execRdTodmin c addr s
  | .rdTodhr c addr => Sys2Proof.Machine.execRdTodhr c addr s
  | .rdSdr c addr => Sys2Proof.Machine.execRdSdr c addr s
  | .rdIcr c addr => Sys2Proof.Machine.execRdIcr c addr s
  | .rdCra c addr => Sys2Proof.Machine.execRdCra c addr s
  | .rdCrb c addr => Sys2Proof.Machine.execRdCrb c addr s
  | .wrPra c addr v => Sys2Proof.Machine.execWrPra c addr v s
  | .wrPrb c addr v => Sys2Proof.Machine.execWrPrb c addr v s
  | .wrDdra c addr v => Sys2Proof.Machine.execWrDdra c addr v s
  | .wrDdrb c addr v => Sys2Proof.Machine.execWrDdrb c addr v s
  | .wrTalo c addr v => Sys2Proof.Machine.execWrTalo c addr v s
  | .wrTahi c addr v => Sys2Proof.Machine.execWrTahi c addr v s
  | .wrTblo c addr v => Sys2Proof.Machine.execWrTblo c addr v s
  | .wrTbhi c addr v => Sys2Proof.Machine.execWrTbhi c addr v s
  | .wrTod10 c addr v => Sys2Proof.Machine.execWrTod10 c addr v s
  | .wrTodsec c addr v => Sys2Proof.Machine.execWrTodsec c addr v s
  | .wrTodmin c addr v => Sys2Proof.Machine.execWrTodmin c addr v s
  | .wrTodhr c addr v => Sys2Proof.Machine.execWrTodhr c addr v s
  | .wrSdr c addr v => Sys2Proof.Machine.execWrSdr c addr v s
  | .wrIcr c addr v => Sys2Proof.Machine.execWrIcr c addr v s
  | .wrCra c addr v => Sys2Proof.Machine.execWrCra c addr v s
  | .wrCrb c addr v => Sys2Proof.Machine.execWrCrb c addr v s
  | .cycle c => Sys2Proof.Machine.execCycle c s
  | .todTick c => Sys2Proof.Machine.execTodTick c s
  | .reset c => Sys2Proof.Machine.execReset c s
  | .hostKey row column pressed => Sys2Proof.Machine.execHostKey row column pressed s
  | .hostJoy n v => Sys2Proof.Machine.execHostJoy n v s
  | .hostSer v => Sys2Proof.Machine.execHostSer v s

end Sys2Proof.Machine
end

