-- ==== Sys2Proof/Machine/Step.lean ====
section
/-! DEFINITION. One step of the machine: the next operation the environment issues is taken from `inbox`, decoded and executed
(00_scope.md R8: the state changes only by operations, one after another; notes/assumptions/1.md). -/

namespace Sys2Proof.Machine

/-- The next operation runs to completion (20_memory.md R70). With no operation issued nothing changes (00_scope.md R8). A request
outside the domain of its chip is refused by the decoder's name for it (93_implementation_defined.md U21). -/
def step (s : State) : Host.Outcome State Fault Refusal :=
  match s.inbox with
  | [] => .next s
  | r :: rest =>
    match decode r with
    | .ok i => exec i { s with inbox := rest }
    | .error why => .refused (.undecodable why)

/-- `s` with the bare operation word `w` of the table as the next operation: it is put first in the inbox, for instance 1, in its page,
with data byte 0, none of which the word says (30_encoding.md R81; notes/assumptions/4.md). -/
def State.withFetchWord (s : State) (_nbits w : Nat) : State :=
  { s with inbox := tableRequest s.cfg w :: s.inbox }

end Sys2Proof.Machine
end

