-- ==== Sys2Proof/Safety.lean ====
section
/-! DEFINITION. The terms in which claims about the machine are stated: live instances, registers and their mirrors, the timers by
name, what the rules say a timer's cycle does, the invariant of the states between operations, and views of the event trace. -/

namespace Sys2Proof.Machine

/-! ### Instances and registers -/

/-- The instance has not met the fatal dispatch condition (60_exceptions.md R242). -/
abbrev State.live (s : State) (c : Inst) : Prop := (s.chip c).fatal = none

/-- The other instance. -/
def otherInst : Inst → Inst
  | .one => .two
  | .two => .one

/-- The instance an operation is on. -/
def instOf : Instr → Inst
  | .rdPra1 _ | .rdPrb1 _ | .hostKey _ _ _ | .hostJoy _ _ => .one
  | .rdPra2 _ | .rdPrb2 _ | .hostSer _ => .two
  | .rdDdra c _ | .rdDdrb c _ | .rdTalo c _ | .rdTahi c _ | .rdTblo c _ | .rdTbhi c _ => c
  | .rdTod10 c _ | .rdTodsec c _ | .rdTodmin c _ | .rdTodhr c _ | .rdSdr c _ | .rdIcr c _ | .rdCra c _ | .rdCrb c _ => c
  | .wrPra c _ _ | .wrPrb c _ _ | .wrDdra c _ _ | .wrDdrb c _ _ | .wrTalo c _ _ | .wrTahi c _ _ => c
  | .wrTblo c _ _ | .wrTbhi c _ _ | .wrTod10 c _ _ | .wrTodsec c _ _ | .wrTodmin c _ _ | .wrTodhr c _ _ => c
  | .wrSdr c _ _ | .wrIcr c _ _ | .wrCra c _ _ | .wrCrb c _ _ => c
  | .cycle c | .todTick c | .reset c => c

/-- The address of a bus operation; none for a pin event. -/
def busAddr (i : Instr) : Option Addr := i.busOffset.map Prod.fst

/-- The address and the data byte of a bus write; none for any other operation. -/
def writeOf : Instr → Option (Addr × Byte)
  | .wrPra _ a v | .wrPrb _ a v | .wrDdra _ a v | .wrDdrb _ a v | .wrTalo _ a v | .wrTahi _ a v => some (a, v)
  | .wrTblo _ a v | .wrTbhi _ a v | .wrTod10 _ a v | .wrTodsec _ a v | .wrTodmin _ a v | .wrTodhr _ a v => some (a, v)
  | .wrSdr _ a v | .wrIcr _ a v | .wrCra _ a v | .wrCrb _ a v => some (a, v)
  | .rdPra1 _ | .rdPra2 _ | .rdPrb1 _ | .rdPrb2 _ | .rdDdra _ _ | .rdDdrb _ _ | .rdTalo _ _ | .rdTahi _ _ => none
  | .rdTblo _ _ | .rdTbhi _ _ | .rdTod10 _ _ | .rdTodsec _ _ | .rdTodmin _ _ | .rdTodhr _ _ | .rdSdr _ _ => none
  | .rdIcr _ _ | .rdCra _ _ | .rdCrb _ _ | .cycle _ | .todTick _ | .reset _ => none
  | .hostKey _ _ _ | .hostJoy _ _ | .hostSer _ => none

/-- The page of an instance (20_memory.md R61). -/
def State.pageByte (s : State) (c : Inst) : Byte := pageOf (pageBaseOf s.cfg c)

/-- The operation word `0 mmmm kkkk` of a read (30_encoding.md R81). -/
def readWord (m k : BitVec 4) : OpWord := 0#1 ++ m ++ k

/-- The operation word `1 mmmm kkkk` of a write (30_encoding.md R81). -/
def writeWord (m k : BitVec 4) : OpWord := 1#1 ++ m ++ k

/-- Mirror `m` of register `k` in the page of an instance (20_memory.md R62). -/
def State.regAddr (s : State) (c : Inst) (m k : BitVec 4) : Addr := s.pageByte c ++ m ++ k

/-- At every mirror, a bus read of register `k` of instance `c` is the operation `i` and answers `t`. -/
def ReadGives (s : State) (c : Inst) (k : BitVec 4) (i : Addr → Instr) (t : State) : Prop :=
  ∀ (m : BitVec 4) (data : Byte),
    decode (.bus c (s.pageByte c) (readWord m k) data) = .ok (i (s.regAddr c m k)) ∧
      exec (i (s.regAddr c m k)) s = .next t

/-- At every mirror, a bus write of `v` to register `k` of instance `c` is the operation `i` and answers `t` of its address. -/
def WriteGives (s : State) (c : Inst) (k : BitVec 4) (v : Byte) (i : Addr → Byte → Instr) (t : Addr → State) : Prop :=
  ∀ m : BitVec 4,
    decode (.bus c (s.pageByte c) (writeWord m k) v) = .ok (i (s.regAddr c m k) v) ∧
      exec (i (s.regAddr c m k) v) s = .next (t (s.regAddr c m k))

/-- `s` after an operation on instance `c` that returns no byte and leaves its record as `ch`. -/
def State.leaving (s : State) (c : Inst) (ch : Chip) : State := { s.setChip c ch with readData := none }

/-- `s` after a bus write that leaves the record of instance `c` as `ch`, with `SHADOW[addr]=v` appended to the trace and then the
events `more` (20_memory.md R68; the address as issued and the byte as written: decision D27, notes/assumptions/19.md). -/
def State.storing (s : State) (c : Inst) (addr : Addr) (v : Byte) (more : List Event) (ch : Chip) : State :=
  s.leaving c { ch with out := (s.chip c).out ++ Event.shadow addr v :: more }

/-! ### Sequences of operations -/

/-- The operations of a list, one after another (20_memory.md R70). -/
def runOps : List Instr → State → Host.Outcome State Fault Refusal
  | [], s => .next s
  | i :: rest, s =>
    match exec i s with
    | .next t => runOps rest t
    | .fault r => .fault r
    | .refused r => .refused r

/-! ### Timers by name -/

/-- Timer A or timer B of a chip. -/
inductive Which where
  | a
  | b
deriving DecidableEq, Repr

/-- The timer of that name. -/
def Chip.timer (ch : Chip) : Which → Timer
  | .a => ch.timerA
  | .b => ch.timerB

/-- Its source bit in `pending` and `mask` (30_encoding.md R86). -/
def sourceOf : Which → Byte
  | .a => 0x01
  | .b => 0x02

/-- Whether the count input of a timer is active in a cycle that ends in the record `after` (40_timer.md R112, 44_chip_cycle.md R231):
timer A counts Phi2 or nothing; timer B Phi2, or the underflows of timer A in the same cycle. -/
def inputActive (w : Which) (t : Timer) (after : Chip) : Bool :=
  match w with
  | .a => t.countsSystemClock
  | .b => t.countsSystemClock || (t.countsOtherTimerUnderflow && after.timerA.underflowedThisCycle)

/-- A timer that has fired (40_timer.md R115), at the end of the cycle: reloaded, the run bits cleared and gone to `LoadStop` when
one-shot, gone to `LoadCount` otherwise, the flag delivered. -/
def firedTimer (t : Timer) : Timer :=
  if t.control.getLsbD 3 then
    { t with value := t.latch, control := t.control &&& 0xFE, pendingControl := t.pendingControl &&& 0xFE,
             state := .loadStop, interruptPendingNextCycle := false }
  else { t with value := t.latch, state := .loadCount, interruptPendingNextCycle := false }

/-- What the table of 40_timer.md R111 with R113 and R114 makes of a timer in one cycle, before any staged write is applied. -/
def actedTimer (opt : CountStopUnderflow) (active : Bool) (t : Timer) : Timer :=
  let u := { t with underflowedThisCycle := false, interruptPendingNextCycle := false }
  let counted := { u with value := t.value - 1 }
  match t.state with
  | .stop => u
  | .waitCount => { u with state := .count }
  | .loadStop => { u with value := t.latch, state := .stop }
  | .loadCount => { u with value := t.latch, state := .count }
  | .loadWaitCount => if t.value = 1 then firedTimer u else { u with value := t.latch, state := .waitCount }
  | .count =>
    if active = false then u
    else if t.value = 0 ∨ t.value = 1 then { firedTimer u with underflowedThisCycle := true }
    else counted
  | .countStop =>
    if active = false then { u with state := .stop }
    else if t.value = 0 ∨ t.value = 1 then
      match opt with
      | .fireAndStop => { firedTimer u with underflowedThisCycle := true, state := .stop }
      | .fireAndFollow => { firedTimer u with underflowedThisCycle := true }
      | .suppress => { counted with underflowedThisCycle := true, state := .stop }
    else { counted with state := .stop }

/-- Whether a timer fires in a cycle (40_timer.md R111, R113, R114). -/
def firesNow (opt : CountStopUnderflow) (active : Bool) (t : Timer) : Bool :=
  match t.state with
  | .loadWaitCount => t.value == 1
  | .count => active && (t.value == 0 || t.value == 1)
  | .countStop => active && (t.value == 0 || t.value == 1) && opt != .suppress
  | .stop => false
  | .waitCount => false
  | .loadStop => false
  | .loadCount => false

/-- The default table of 40_timer.md R117, written as a function of the state and the bits run, load and one-shot: the new state and
whether the staged run bit is cleared. -/
def idleByHand (st : TimerState) (run load one : Bool) : TimerState × Bool :=
  match st, run, load, one with
  | .stop, true, false, _ | .loadStop, true, false, _ => (.waitCount, false)
  | .stop, true, true, _ | .loadStop, true, true, _ => (.loadWaitCount, false)
  | .stop, false, true, _ | .loadStop, false, true, _ => (.loadStop, false)
  | .stop, false, false, _ => (.stop, false)
  | .loadStop, false, false, _ => (.loadStop, false)
  | .count, true, true, _ => (.loadWaitCount, false)
  | .count, true, false, _ => (.count, false)
  | .count, false, true, _ => (.loadStop, false)
  | .count, false, false, _ => (.countStop, false)
  | .loadCount, true, _, true | .waitCount, true, _, true => (.stop, true)
  | .loadCount, true, true, false | .waitCount, true, true, false => (.loadWaitCount, false)
  | .loadCount, true, false, false => (.loadCount, false)
  | .waitCount, true, false, false => (.waitCount, false)
  | .loadCount, false, _, _ | .waitCount, false, _, _ => (.stop, false)
  | .loadWaitCount, _, _, _ => (.loadWaitCount, false)
  | .countStop, _, _, _ => (.countStop, false)

/-- A timer after a staged byte is applied under the default table and `CONTROL_KEEPS_FORCE_LOAD = false` (40_timer.md R116 to R118). -/
def appliedTimer (t : Timer) : Timer :=
  let hit := idleByHand t.state (t.pendingControl.getLsbD 0) (t.pendingControl.getLsbD 4) (t.pendingControl.getLsbD 3)
  let staged := if hit.2 then t.pendingControl &&& 0xFE else t.pendingControl
  { t with state := hit.1, pendingControl := staged, control := staged &&& 0xEF, pendingValid := false }

/-! ### The clock -/

/-- A two-digit BCD field below a bound in tens (10_state.md R32). -/
def validSixty (v : Byte) : Prop := v.toNat % 16 ≤ 9 ∧ v.toNat / 16 ≤ 5

/-- An hours byte whose low five bits are 0x00 to 0x11 with a decimal units digit, bits 6:5 zero (10_state.md R32, 30_encoding.md R90). -/
def validHour (v : Byte) : Prop := v.toNat % 16 ≤ 9 ∧ v.toNat % 128 ≤ 0x11

/-- Every field holds a valid value (10_state.md R32). -/
def validTime (t : TodTime) : Prop :=
  validHour t.hours ∧ validSixty t.minutes ∧ validSixty t.seconds ∧ t.deciseconds.toNat ≤ 9

/-- The value of a two-digit BCD field. -/
def bcdValue (n : Nat) : Nat := n / 16 * 10 + n % 16

/-- The tenths of a second since midnight that four valid bytes say, hours counted 0 to 11 with bit 7 the second half of the day. -/
def tenths (t : TodTime) : Nat :=
  (((t.hours.toNat / 128 * 12 + bcdValue (t.hours.toNat % 128)) * 60 + bcdValue t.minutes.toNat) * 60
    + bcdValue t.seconds.toNat) * 10 + t.deciseconds.toNat

/-- Two digits plus one with the carry at ten, the tens digit unbounded (42_tod.md R159): a units digit of 9 or more becomes 0. -/
def digitsPlusOne (units tens : Nat) : Nat := if 9 ≤ units then (tens + 1) * 16 else tens * 16 + units + 1

/-- A byte of seconds or minutes plus one before its bound is looked at: 0x60 and above rolls (42_tod.md R159, R160). -/
def sixtyPlusOne (v : Byte) : Nat := digitsPlusOne (v.toNat % 16) (v.toNat / 16 % 8)

/-- The low five bits of an hours byte plus one before their bound is looked at (42_tod.md R161). -/
def hourPlusOne (v : Byte) : Nat := digitsPlusOne (v.toNat % 16) (v.toNat / 16 % 2)

/-- The four bytes keep to the formats of 10_state.md R29: unused bits are zero. -/
def todFormat (t : TodTime) : Prop :=
  t.hours &&& 0x60 = 0 ∧ t.minutes &&& 0x80 = 0 ∧ t.seconds &&& 0x80 = 0 ∧ t.deciseconds &&& 0xF0 = 0

/-! ### The invariant of the states between operations -/

/-- What the rules say of one instance's record between operations. -/
structure ChipInv (cfg : Config) (ch : Chip) : Prop where
  /-- "`s.mask[7]` is always 0" (10_state.md R27). -/
  mask_top : ch.mask &&& 0x80 = 0
  /-- "`pending[6:5]` is always 0" (30_encoding.md R86). -/
  pending_spare : ch.pending &&& 0x60 = 0
  /-- Timer A cannot cascade (10_state.md R25). -/
  timerA_no_cascade : ch.timerA.countsOtherTimerUnderflow = false
  /-- Timer B has at most one count input (30_encoding.md R89). -/
  timerB_one_input : (ch.timerB.countsSystemClock && ch.timerB.countsOtherTimerUnderflow) = false
  /-- Timer A's delivery flag is false between chip cycles (10_state.md R26). -/
  timerA_delivered : ch.timerA.interruptPendingNextCycle = false
  /-- Timer B's delivery flag is false between chip cycles (10_state.md R26). -/
  timerB_delivered : ch.timerB.interruptPendingNextCycle = false
  /-- The line is asserted exactly when the summary bit is set (41_interrupt_controller.md R143). -/
  line_is_summary : ch.intLine = ch.pending.getLsbD 7
  /-- The summary-bit law (10_state.md R28, 41_interrupt_controller.md R147), which needs `TIMER_B_DELIVERY`. -/
  summary_law : cfg.timerBDelivery = true → ch.pending &&& ch.mask &&& 0x1F ≠ 0 → ch.pending.getLsbD 7 = true
  /-- The clock keeps its format (10_state.md R29). -/
  tod_format : todFormat ch.tod
  /-- The alarm keeps its format (10_state.md R30). -/
  alarm_format : todFormat ch.alarm
  /-- `FORCE_LOAD` never stands in the effective control byte of timer A (30_encoding.md R87, 40_timer.md R118). -/
  timerA_strobe : cfg.controlKeepsForceLoad = false → ch.timerA.control &&& 0x10 = 0
  /-- Nor in timer B's. -/
  timerB_strobe : cfg.controlKeepsForceLoad = false → ch.timerB.control &&& 0x10 = 0

/-- `reverse_key_matrix` is the transpose of `key_matrix` (10_state.md R35). -/
def keysTransposed (x : Instance1) : Prop :=
  ∀ r k : Fin 8, x.reverseKeyMatrix[k].getLsbD r.val = x.keyMatrix[r].getLsbD k.val

/-- The light-pen line last observed is the one the port registers drive (43_register_file.md R196). -/
def lightPenObserved (ch : Chip) (x : Instance1) : Prop :=
  x.previousLightPenLine = (ch.portB ||| ~~~ch.directionB) &&& 0x10

/-- What the invariant asks of the parameters, which the defaults meet: the TOD write masks keep the formats of 30_encoding.md R90, and
the reset record is itself a record as the rules leave one between operations. -/
structure ConfigInv (cfg : Config) : Prop where
  masks_format : cfg.todWriteMasks.hours &&& 0x60 = 0 ∧ cfg.todWriteMasks.minutes &&& 0x80 = 0 ∧
    cfg.todWriteMasks.seconds &&& 0x80 = 0 ∧ cfg.todWriteMasks.deciseconds &&& 0xF0 = 0
  reset_chip : ChipInv cfg (chipAtReset cfg.resetRecord)
  reset_keys : keysTransposed cfg.resetRecord.inst1
  reset_light_pen : lightPenObserved (chipAtReset cfg.resetRecord) cfg.resetRecord.inst1

/-- What the rules say of the whole machine between operations. -/
structure StateInv (s : State) : Prop where
  cfg_inv : ConfigInv s.cfg
  chip1_inv : ChipInv s.cfg s.chip1
  chip2_inv : ChipInv s.cfg s.chip2
  keys_transposed : keysTransposed s.inst1
  light_pen_observed : lightPenObserved s.chip1 s.inst1

/-! ### Views of the trace -/

/-- The byte the bus's I/O bank holds at an address by the shadow writes of a trace: the last one to that address, none where the chip
has written nothing (20_memory.md R69). -/
def shadowAt (out : List Event) (addr : Addr) : Option Byte :=
  out.foldl (fun held e => match e with
    | .shadow a v => if a = addr then some v else held
    | .irq _ => held
    | .nmi _ => held
    | .bank _ => held
    | .lightPen => held) none

/-- Whether an instance can emit an event (10_state.md R40, R42, R43). -/
def mayEmit (c : Inst) : Event → Bool
  | .irq _ => c == .one
  | .nmi _ => c == .two
  | .bank _ => c == .two
  | .lightPen => c == .one
  | .shadow _ _ => true

/-- Whether an event is a shadow write. -/
def isShadow : Event → Bool
  | .shadow _ _ => true
  | .irq _ => false
  | .nmi _ => false
  | .bank _ => false
  | .lightPen => false

/-- Requests inside the domain of 30_encoding.md R92 and 93_implementation_defined.md U21: every bus access, and host operations on their
own instance with their numbers in range. -/
def inDomain : Request → Prop
  | .bus _ _ _ _ => True
  | .cycle _ => True
  | .todTick _ => True
  | .reset _ => True
  | .hostKey c row column _ => c = .one ∧ row.toNat < 8 ∧ column.toNat < 8
  | .hostJoy c n _ => c = .one ∧ (n = 1 ∨ n = 2)
  | .hostSer c _ => c = .two

end Sys2Proof.Machine
end

