-- ==== Sys2Proof/Certificates/Slice0/Obligations.lean ====
section
/-! DEFINITION. The statements for the provers. Each docstring names the rule of spec/ it formalises, or, where a clause rests on a
decision of 92_eei_decisions.md or on a choice of the model, that decision and the log entry. -/

open Sys2Proof Sys2Proof.Machine

/-! ### Steps, decoding and encoding -/

/-- When the next request decodes to a well-formed operation, the step is that operation on the state with the request taken off
(00_scope.md R8; the inbox is the model's, notes/assumptions/1.md). -/
def Obligations.StepRunsDecodedOperation : Prop :=
  ∀ (s : State) (r : Request) (rest : List Request) (i : Instr),
    s.inbox = r :: rest → decode r = .ok i → i.wellFormed = true → step s = exec i { s with inbox := rest }

/-- With no operation issued a step changes nothing; a request outside the domain of its chip is refused by the decoder's name for it
(00_scope.md R8, 93_implementation_defined.md U21; the model's choice, notes/assumptions/1.md and 21.md). -/
def Obligations.StepWithoutOperation : Prop :=
  (∀ s : State, s.inbox = [] → step s = .next s) ∧
  (∀ (s : State) (r : Request) (rest : List Request) (e : DecodeError),
    s.inbox = r :: rest → decode r = .error e → step s = .refused (.undecodable e))

/-- Decoding the encoding of a well-formed operation gives it back, with every operand at every value (30_encoding.md R80, R81, R92;
the request form is the model's, notes/assumptions/30.md). -/
def Obligations.DecodeEncodeRoundTrip : Prop :=
  ∀ i : Instr, i.wellFormed = true → decode (encode i) = .ok i

/-- What a request decodes to is well-formed and encodes to that request again, but for the data byte of a read, which is absent
(30_encoding.md R80; notes/assumptions/30.md). -/
def Obligations.EncodeDecodeRoundTrip : Prop :=
  ∀ (r : Request) (i : Instr), decode r = .ok i →
    i.wellFormed = true ∧
    (encode i = r ∨
      ∃ (c : Inst) (page : Byte) (word : OpWord) (data : Byte),
        r = .bus c page word data ∧ word.getLsbD 8 = false ∧ encode i = .bus c page word 0)

/-- A request is an operation exactly when it is inside the domain: every bus access is one (43_register_file.md R181: "The sixteen
cases are exhaustive"), and a host operation on its own instance with its numbers in range (30_encoding.md R92,
93_implementation_defined.md U21). -/
def Obligations.DecodeAcceptsExactlyTheDomain : Prop :=
  ∀ r : Request, (∃ i, decode r = .ok i) ↔ inDomain r

/-- A few operation words of 95_test_vectors.md (P1, P2, P3, V21) decode to the operations named there. -/
def Obligations.SpecWordsDecode : Prop :=
  decode (.bus .one 0xDC 0x10D 0x81) = .ok (.wrIcr .one 0xDC0D 0x81) ∧
  decode (.bus .one 0xDC 0x10E 0x09) = .ok (.wrCra .one 0xDC0E 0x09) ∧
  decode (.bus .one 0xDC 0x01D 0x00) = .ok (.rdIcr .one 0xDC1D) ∧
  decode (.bus .two 0xDD 0x10F 0x41) = .ok (.wrCrb .two 0xDD0F 0x41) ∧
  decode (.bus .two 0xDD 0x107 0x00) = .ok (.wrTbhi .two 0xDD07 0x00) ∧
  decode (.bus .one 0xDC 0x108 0x08) = .ok (.wrTod10 .one 0xDC08 0x08) ∧
  decode (.bus .one 0xDC 0x001 0x00) = .ok (.rdPrb1 0xDC01) ∧
  decode (.bus .two 0xDD 0x000 0x00) = .ok (.rdPra2 0xDD00) ∧
  decode (.bus .one 0xDC 0x13C 0xA5) = .ok (.wrSdr .one 0xDC3C 0xA5) ∧
  decode (.hostKey .one 1 2 true) = .ok (.hostKey 1 2 true)

/-- Every operation, with any operands in any state, answers a next state (60_exceptions.md section 1, R244; that `Fatal` is a next
state and not a stop is the reading of notes/assumptions/20.md). -/
def Obligations.EveryOperationCompletes : Prop :=
  ∀ (i : Instr) (s : State), ∃ t, exec i s = .next t

/-! ### The fatal exception -/

/-- An access whose page is not the instance's records its address and does nothing else; and an instance becomes fatal in no other way
(20_memory.md R63, 60_exceptions.md R241). That this exception is a next state is the reading of decision D29 in
notes/assumptions/20.md. -/
def Obligations.FatalExactlyOutOfPage : Prop :=
  (∀ (i : Instr) (addr : Addr) (s : State), busAddr i = some addr → s.live (instOf i) →
    pageOf addr ≠ s.pageByte (instOf i) →
      exec i s = .next (s.leaving (instOf i) { s.chip (instOf i) with fatal := some addr })) ∧
  (∀ (i : Instr) (s t : State) (c : Inst), s.live c → exec i s = .next t → ¬ t.live c →
    instOf i = c ∧ ∃ addr, busAddr i = some addr ∧ pageOf addr ≠ s.pageByte c)

/-- After `Fatal` every operation on the instance, RESET included, leaves the state as it is and returns no byte (60_exceptions.md R242,
the spec's decision D29; notes/assumptions/20.md). -/
def Obligations.FatalInstanceIsStuck : Prop :=
  ∀ (i : Instr) (s : State), ¬ s.live (instOf i) → exec i s = .next { s with readData := none }

/-! ### Bus reads -/

/-- Reads of 0x04 to 0x07 return the halves of the live values and change nothing (43_register_file.md section 5; that they return the
live value is decision D21, notes/assumptions/25.md). -/
def Obligations.TimerReadsGiveLiveValue : Prop :=
  ∀ (s : State) (c : Inst), s.live c →
    ReadGives s c 0x4 (.rdTalo c) { s with readData := some ((s.chip c).timerA.value.extractLsb' 0 8) } ∧
    ReadGives s c 0x5 (.rdTahi c) { s with readData := some ((s.chip c).timerA.value.extractLsb' 8 8) } ∧
    ReadGives s c 0x6 (.rdTblo c) { s with readData := some ((s.chip c).timerB.value.extractLsb' 0 8) } ∧
    ReadGives s c 0x7 (.rdTbhi c) { s with readData := some ((s.chip c).timerB.value.extractLsb' 8 8) }

/-- Reads of 0x0E and 0x0F return the effective control bytes and change nothing (43_register_file.md section 8; decision D21,
notes/assumptions/25.md). -/
def Obligations.ControlReadsGiveEffectiveByte : Prop :=
  ∀ (s : State) (c : Inst), s.live c →
    ReadGives s c 0xE (.rdCra c) { s with readData := some (s.chip c).timerA.control } ∧
    ReadGives s c 0xF (.rdCrb c) { s with readData := some (s.chip c).timerB.control }

/-- Reads of 0x02, 0x03 and 0x0C return the stored bytes and change nothing (43_register_file.md sections 3 and 7; decisions D21 and D22,
notes/assumptions/25.md and 15.md). -/
def Obligations.DirectionAndSerialReads : Prop :=
  ∀ (s : State) (c : Inst), s.live c →
    ReadGives s c 0x2 (.rdDdra c) { s with readData := some (s.chip c).directionA } ∧
    ReadGives s c 0x3 (.rdDdrb c) { s with readData := some (s.chip c).directionB } ∧
    ReadGives s c 0xC (.rdSdr c) { s with readData := some (s.chip c).sdr }

/-- Reads of 0x09 and 0x0A return the live clock and neither halt nor release it (42_tod.md section 3; decision D21,
notes/assumptions/25.md). -/
def Obligations.SecondsAndMinutesReads : Prop :=
  ∀ (s : State) (c : Inst), s.live c →
    ReadGives s c 0x9 (.rdTodsec c) { s with readData := some (s.chip c).tod.seconds } ∧
    ReadGives s c 0xA (.rdTodmin c) { s with readData := some (s.chip c).tod.minutes }

/-- The read of deciseconds clears the halt, the read of hours sets it (42_tod.md R163, R164); that they return the live clock is
decision D21 (notes/assumptions/25.md), and an address out of page is fatal, a next state (notes/assumptions/20.md). -/
def Obligations.HoursReadHaltsDecisecondsReadReleases : Prop :=
  (∀ (s : State) (c : Inst), s.live c →
    ReadGives s c 0x8 (.rdTod10 c)
      { s.setChip c { s.chip c with todHalted := false } with readData := some (s.chip c).tod.deciseconds } ∧
    ReadGives s c 0xB (.rdTodhr c)
      { s.setChip c { s.chip c with todHalted := true } with readData := some (s.chip c).tod.hours }) ∧
  (∀ (s : State) (c : Inst) (addr : Addr), s.live c → pageOf addr ≠ s.pageByte c →
    exec (.rdTod10 c addr) s = .next (s.leaving c { s.chip c with fatal := some addr }) ∧
    exec (.rdTodhr c addr) s = .next (s.leaving c { s.chip c with fatal := some addr }))

/-- The read of 0x0D, at any mirror, returns `pending` with the summary bit, clears all of it, and releases the line even when it was not
asserted; nothing else changes (41_interrupt_controller.md R144, R145). An address out of page is fatal, a next state (decision D29,
notes/assumptions/20.md). -/
def Obligations.IcrReadReturnsAndClears : Prop :=
  (∀ (s : State) (c : Inst), s.live c →
    ReadGives s c 0xD (.rdIcr c)
      { s.setChip c { s.chip c with
          pending := 0x00, intLine := false,
          out := (s.chip c).out ++ [match c with | .one => .irq false | .two => .nmi false] } with
        readData := some (s.chip c).pending }) ∧
  (∀ (s : State) (c : Inst) (addr : Addr), s.live c → pageOf addr ≠ s.pageByte c →
    exec (.rdIcr c addr) s = .next (s.leaving c { s.chip c with fatal := some addr }))

/-- Port reads of instance 2: pin levels with the serial inputs in bits 7:6 of port A, pin levels on port B; nothing changes
(43_register_file.md section 3; decisions D23 and D25, notes/assumptions/17.md and 18.md). -/
def Obligations.Instance2PortReads : Prop :=
  ∀ s : State, s.live .two →
    ReadGives s .two 0x0 .rdPra2
      { s with readData := some (s.serialBusLines.extractLsb' 6 2 ++ (s.chip2.portA ||| ~~~s.chip2.directionA).extractLsb' 0 6) } ∧
    ReadGives s .two 0x1 .rdPrb2 { s with readData := some (s.chip2.portB ||| ~~~s.chip2.directionB) }

/-- Port reads of instance 1, bit by bit, and nothing changes (43_register_file.md section 3; decision D23, notes/assumptions/18.md).
A port A bit reads 1 when the chip leaves it high, joystick 2 does, and no column line that is low on port B has a pressed key on it;
a port B bit reads its latch when it is an output and, as an input, 1 when no row line low on port A has a pressed key on it, and 0
in both cases where joystick 1 pulls it low. -/
def Obligations.Instance1PortReadsBitwise : Prop :=
  ∀ s : State, s.live .one →
    ∃ a b : Byte,
      ReadGives s .one 0x0 .rdPra1 { s with readData := some a } ∧
      ReadGives s .one 0x1 .rdPrb1 { s with readData := some b } ∧
      ∀ p : Fin 8,
        (a.getLsbD p.val = true ↔
          (s.chip1.directionA.getLsbD p.val = true → s.chip1.portA.getLsbD p.val = true) ∧
          s.inst1.joystick2.getLsbD p.val = true ∧
          ∀ q : Fin 8,
            ((s.chip1.directionB.getLsbD q.val = true → s.chip1.portB.getLsbD q.val = true) ∧
              s.inst1.joystick1.getLsbD q.val = true) ∨
            s.inst1.reverseKeyMatrix[q].getLsbD p.val = true) ∧
        (b.getLsbD p.val = true ↔
          s.inst1.joystick1.getLsbD p.val = true ∧
          ((s.chip1.directionB.getLsbD p.val = true ∧ s.chip1.portB.getLsbD p.val = true) ∨
            (s.chip1.directionB.getLsbD p.val = false ∧
              ∀ q : Fin 8,
                ((s.chip1.directionA.getLsbD q.val = true → s.chip1.portA.getLsbD q.val = true) ∧
                  s.inst1.joystick2.getLsbD q.val = true) ∨
                s.inst1.keyMatrix[q].getLsbD p.val = true)))

/-- The keyboard scan (43_register_file.md R187, which the spec derives from D23 and D36; notes/assumptions/18.md): with port A all
outputs and only bit `r` low, port B all inputs and no joystick closed, a read of port B returns row `r` of the key matrix; with
no row low it returns 0xFF. -/
def Obligations.KeyboardScanReadsSelectedRow : Prop :=
  ∀ s : State, s.live .one → s.chip1.directionA = 0xFF → s.chip1.directionB = 0x00 →
    s.inst1.joystick1 = 0xFF → s.inst1.joystick2 = 0xFF →
      (∀ r : Fin 8, s.chip1.portA = ~~~(1#8 <<< r.val) →
        ReadGives s .one 0x1 .rdPrb1 { s with readData := some s.inst1.keyMatrix[r] }) ∧
      (s.chip1.portA = 0xFF → ReadGives s .one 0x1 .rdPrb1 { s with readData := some 0xFF })

/-! ### Bus writes -/

/-- Writes of port A and direction A store the byte; on instance 2 they send the inverted low pins as the bank, changed or not
(43_register_file.md section 4; decision D26, notes/assumptions/17.md). -/
def Obligations.PortAWritesNotifyBank : Prop :=
  (∀ (s : State) (v : Byte), s.live .one →
    WriteGives s .one 0x0 v (.wrPra .one) (fun addr => s.storing .one addr v [] { s.chip1 with portA := v }) ∧
    WriteGives s .one 0x2 v (.wrDdra .one) (fun addr => s.storing .one addr v [] { s.chip1 with directionA := v })) ∧
  (∀ (s : State) (v : Byte), s.live .two →
    WriteGives s .two 0x0 v (.wrPra .two) (fun addr =>
      s.storing .two addr v [.bank ((~~~v &&& s.chip2.directionA).extractLsb' 0 2)] { s.chip2 with portA := v }) ∧
    WriteGives s .two 0x2 v (.wrDdra .two) (fun addr =>
      s.storing .two addr v [.bank ((~~~s.chip2.portA &&& v).extractLsb' 0 2)] { s.chip2 with directionA := v }))

/-- Writes of port B and direction B store the byte; on instance 1 they observe bit 4 of the pins and send the light-pen trigger when it
changed (or, under `LIGHTPEN_EDGE = falling`, when it fell), and nothing more on instance 2 (43_register_file.md section 4; decision
D24, notes/assumptions/16.md). -/
def Obligations.PortBWritesCheckLightPen : Prop :=
  (∀ (s : State) (v : Byte), s.live .one →
    let now := fun (port dir : Byte) => (port ||| ~~~dir) &&& 0x10
    let sent := fun (b : Byte) =>
      if (s.cfg.lightPenEdge = .both ∧ b ≠ s.inst1.previousLightPenLine) ∨
          (s.cfg.lightPenEdge = .falling ∧ b = 0x00 ∧ s.inst1.previousLightPenLine = 0x10)
        then [Event.lightPen] else []
    WriteGives s .one 0x1 v (.wrPrb .one) (fun addr =>
      { s.storing .one addr v (sent (now v s.chip1.directionB)) { s.chip1 with portB := v } with
        inst1 := { s.inst1 with previousLightPenLine := now v s.chip1.directionB } }) ∧
    WriteGives s .one 0x3 v (.wrDdrb .one) (fun addr =>
      { s.storing .one addr v (sent (now s.chip1.portB v)) { s.chip1 with directionB := v } with
        inst1 := { s.inst1 with previousLightPenLine := now s.chip1.portB v } })) ∧
  (∀ (s : State) (v : Byte), s.live .two →
    WriteGives s .two 0x1 v (.wrPrb .two) (fun addr => s.storing .two addr v [] { s.chip2 with portB := v }) ∧
    WriteGives s .two 0x3 v (.wrDdrb .two) (fun addr => s.storing .two addr v [] { s.chip2 with directionB := v }))

/-- A low latch byte replaces the low half of the latch and nothing else, running or stopped (43_register_file.md R202, R204), after the
shadow write of R182 at the address as issued (20_memory.md R68; decision D27, notes/assumptions/19.md). -/
def Obligations.LatchLowWritesChangeLatchOnly : Prop :=
  ∀ (s : State) (c : Inst) (v : Byte), s.live c →
    WriteGives s c 0x4 v (.wrTalo c) (fun addr =>
      s.storing c addr v [] { s.chip c with
        timerA := { (s.chip c).timerA with latch := (s.chip c).timerA.latch.extractLsb' 8 8 ++ v } }) ∧
    WriteGives s c 0x6 v (.wrTblo c) (fun addr =>
      s.storing c addr v [] { s.chip c with
        timerB := { (s.chip c).timerB with latch := (s.chip c).timerB.latch.extractLsb' 8 8 ++ v } })

/-- A high latch byte replaces the high half of the latch, and loads the live value with the whole latch while the run bit of the
effective control byte is clear (43_register_file.md section 6; that the effective byte decides is D13, notes/assumptions/24.md). -/
def Obligations.LatchHighWritesLoadStoppedTimer : Prop :=
  ∀ (s : State) (c : Inst) (v : Byte), s.live c →
    let written := fun (t : Timer) =>
      { t with
        latch := v ++ t.latch.extractLsb' 0 8
        value := if t.control.getLsbD 0 then t.value else v ++ t.latch.extractLsb' 0 8 }
    WriteGives s c 0x5 v (.wrTahi c) (fun addr =>
      s.storing c addr v [] { s.chip c with timerA := written (s.chip c).timerA }) ∧
    WriteGives s c 0x7 v (.wrTbhi c) (fun addr =>
      s.storing c addr v [] { s.chip c with timerB := written (s.chip c).timerB })

/-- A control write stages the whole byte and selects the count input at once; the effective byte, the state and the value stay
(43_register_file.md section 8; decisions D4, D5 and D6, notes/assumptions/7.md and 24.md). -/
def Obligations.ControlWritesStageAndSelectInput : Prop :=
  ∀ (s : State) (c : Inst) (v : Byte), s.live c →
    WriteGives s c 0xE v (.wrCra c) (fun addr =>
      s.storing c addr v [] { s.chip c with
        timerA := { (s.chip c).timerA with
          pendingControl := v, pendingValid := true,
          countsSystemClock := !v.getLsbD 5, countsOtherTimerUnderflow := false } }) ∧
    WriteGives s c 0xF v (.wrCrb c) (fun addr =>
      s.storing c addr v [] { s.chip c with
        timerB := { (s.chip c).timerB with
          pendingControl := v, pendingValid := true,
          countsSystemClock := !v.getLsbD 6 && !v.getLsbD 5,
          countsOtherTimerUnderflow := v.getLsbD 6 && !v.getLsbD 5 } })

/-- TOD writes store the masked byte in the alarm when bit 7 of timer B's effective control byte is set and in the clock otherwise, and
do nothing else; the masks are a parameter whose defaults are 0x9F, 0x7F, 0x7F and 0x0F (42_tod.md section 4; decisions D13, D17, D19
and D20, notes/assumptions/14.md and 24.md). -/
def Obligations.TodWritesRouteByAlarmSelect : Prop :=
  State.reset.cfg.todWriteMasks = { hours := 0x9F, minutes := 0x7F, seconds := 0x7F, deciseconds := 0x0F } ∧
  ∀ (s : State) (c : Inst) (v : Byte), s.live c →
    let ch := s.chip c
    let masks := s.cfg.todWriteMasks
    let routed := fun (f : TodTime → TodTime) =>
      if ch.timerB.control.getLsbD 7 then { ch with alarm := f ch.alarm } else { ch with tod := f ch.tod }
    WriteGives s c 0x8 v (.wrTod10 c) (fun addr =>
      s.storing c addr v [] (routed fun t => { t with deciseconds := v &&& masks.deciseconds })) ∧
    WriteGives s c 0x9 v (.wrTodsec c) (fun addr =>
      s.storing c addr v [] (routed fun t => { t with seconds := v &&& masks.seconds })) ∧
    WriteGives s c 0xA v (.wrTodmin c) (fun addr =>
      s.storing c addr v [] (routed fun t => { t with minutes := v &&& masks.minutes })) ∧
    WriteGives s c 0xB v (.wrTodhr c) (fun addr =>
      s.storing c addr v [] (routed fun t => { t with hours := v &&& masks.hours }))

/-- A write of 0x0C stores the byte and, under the default `SDR_WRITE_RAISES = false`, raises nothing (43_register_file.md section 7;
decision D22). Under the alternative, which the spec names and does not describe, the model raises pending bit 3 as any source is
raised (the model's choice, notes/assumptions/15.md). -/
def Obligations.SerialWriteStores : Prop :=
  ∀ (s : State) (c : Inst) (v : Byte), s.live c →
    (s.cfg.sdrWriteRaises = false →
      WriteGives s c 0xC v (.wrSdr c) (fun addr => s.storing c addr v [] { s.chip c with sdr := v })) ∧
    (s.cfg.sdrWriteRaises = true → (s.chip c).mask.getLsbD 3 = false →
      WriteGives s c 0xC v (.wrSdr c) (fun addr =>
        s.storing c addr v [] { s.chip c with sdr := v, pending := (s.chip c).pending ||| 0x08 })) ∧
    (s.cfg.sdrWriteRaises = true → (s.chip c).mask.getLsbD 3 = true →
      WriteGives s c 0xC v (.wrSdr c) (fun addr =>
        s.storing c addr v [match c with | .one => .irq true | .two => .nmi true]
          { s.chip c with sdr := v, pending := (s.chip c).pending ||| 0x88, intLine := true }))

/-- A write of 0x0D changes the mask bits its low seven bits name, set or cleared by its bit 7; when an enabled source is then pending
inside the gate 0x1F the summary bit is set and the line signalled after the shadow write (41_interrupt_controller.md R142, R146).
That otherwise neither summary bit nor line is touched is decision D34 (notes/assumptions/29.md). The data byte raises and
acknowledges no source; an address out of page is fatal, a next state (notes/assumptions/20.md). -/
def Obligations.IcrWriteSetsMaskAndSignals : Prop :=
  (∀ (s : State) (c : Inst) (v : Byte), s.live c →
    let ch := s.chip c
    let mask := if v.getLsbD 7 then ch.mask ||| (v &&& 0x7F) else ch.mask &&& ~~~(v &&& 0x7F)
    WriteGives s c 0xD v (.wrIcr c) (fun addr =>
      if ch.pending &&& mask &&& 0x1F = 0 then s.storing c addr v [] { ch with mask := mask }
      else s.storing c addr v [match c with | .one => .irq true | .two => .nmi true]
        { ch with mask := mask, pending := ch.pending ||| 0x80, intLine := true })) ∧
  (∀ (s : State) (c : Inst) (addr : Addr) (v : Byte), s.live c → pageOf addr ≠ s.pageByte c →
    exec (.wrIcr c addr v) s = .next (s.leaving c { s.chip c with fatal := some addr }))

/-- The sixteen mirrors of a register are one operation, side effects included (20_memory.md R62). A read at any mirror answers the same
state and byte; a write at any mirror answers the same state but for the address in its shadow event: that exception is R183 of
43_register_file.md, which the spec derives, and rests on decision D27 (notes/assumptions/19.md). -/
def Obligations.MirrorsAreOneRegister : Prop :=
  ∀ (s : State) (c : Inst) (k : BitVec 4), s.live c →
    (∃ (i : Addr → Instr) (t : State), ReadGives s c k i t) ∧
    (∀ v : Byte, ∃ (i : Addr → Byte → Instr) (t : State) (more : List Event),
      WriteGives s c k v i (fun addr =>
        t.setChip c { t.chip c with out := (s.chip c).out ++ Event.shadow addr v :: more }))

/-! ### The chip cycle and the timers -/

/-- A chip cycle answers a next state and touches, of its instance, the two timers, `pending`, the line and the trace only
(44_chip_cycle.md section 1; that both halves are one operation is decision D32). -/
def Obligations.CycleTouchesTimersAndInterruptOnly : Prop :=
  ∀ (s : State) (c : Inst), s.live c →
    ∃ ch : Chip, exec (.cycle c) s = .next (s.leaving c ch) ∧
      ch = { s.chip c with timerA := ch.timerA, timerB := ch.timerB, pending := ch.pending, intLine := ch.intLine,
                           out := ch.out }

/-- A timer with no staged write goes through one cycle as the state table says, with the countdown step, the three choices in
`CountStop` and the interrupt-fire action (40_timer.md sections 1 to 3; decisions D9, D10 and D11, notes/assumptions/9.md and 24.md). -/
def Obligations.TimersFollowStateTable : Prop :=
  ∀ (s t : State) (c : Inst) (w : Which), s.live c → exec (.cycle c) s = .next t →
    ((s.chip c).timer w).pendingValid = false →
      (t.chip c).timer w =
        actedTimer s.cfg.countStopUnderflow (inputActive w ((s.chip c).timer w) (t.chip c)) ((s.chip c).timer w)

/-- A staged control write is applied at the end of the cycle, after the state action, by the default idle table, and drops the
force-load bit (40_timer.md section 4; decisions D7 and D8, notes/assumptions/8.md and 10.md). -/
def Obligations.StagedWriteAppliesAtCycleEnd : Prop :=
  ∀ (s t : State) (c : Inst) (w : Which), s.live c → exec (.cycle c) s = .next t →
    s.cfg.idleTable = defaultIdleTable → s.cfg.controlKeepsForceLoad = false →
    ((s.chip c).timer w).pendingValid = true →
      (t.chip c).timer w =
        appliedTimer (actedTimer s.cfg.countStopUnderflow (inputActive w ((s.chip c).timer w) (t.chip c))
          ((s.chip c).timer w))

/-- Which timers fire decides `pending`, the line and the trace of a cycle exactly: each fired timer sets its bit, each fired and enabled
one (timer B only with `TIMER_B_DELIVERY`) sets the summary bit and the line and emits `LINE=1`, A before B (40_timer.md section 3,
44_chip_cycle.md sections 1 and 2; decision D12, notes/assumptions/11.md). -/
def Obligations.FiredTimersRaiseAndDeliver : Prop :=
  ∀ (s t : State) (c : Inst) (firesA firesB : Bool), s.live c → exec (.cycle c) s = .next t →
    (s.chip c).timerA.interruptPendingNextCycle = false → (s.chip c).timerB.interruptPendingNextCycle = false →
    firesA = firesNow s.cfg.countStopUnderflow (inputActive .a (s.chip c).timerA (t.chip c)) (s.chip c).timerA →
    firesB = firesNow s.cfg.countStopUnderflow (inputActive .b (s.chip c).timerB (t.chip c)) (s.chip c).timerB →
      let ch := s.chip c
      let tellsA := firesA && ch.mask.getLsbD 0
      let tellsB := s.cfg.timerBDelivery && firesB && ch.mask.getLsbD 1
      let line := [match c with | .one => Event.irq true | .two => Event.nmi true]
      (t.chip c).pending =
        ch.pending ||| (if firesA then 0x01 else 0x00) ||| (if firesB then 0x02 else 0x00)
          ||| (if tellsA || tellsB then 0x80 else 0x00) ∧
      (t.chip c).intLine = (ch.intLine || tellsA || tellsB) ∧
      (t.chip c).out = ch.out ++ (if tellsA then line else []) ++ (if tellsB then line else [])

/-- The latency of a control write on timer A counting Phi2 under the default idle table (40_timer.md R119, which the spec derives;
decision D7, notes/assumptions/8.md). Setting the run bit of a stopped timer: `WaitCount` after one cycle, `Count` after two, the
first decrement in the third. Clearing it on a counting timer: two more decrements, then `Stop`. -/
def Obligations.ControlWriteLatency : Prop :=
  ∀ (s : State) (c : Inst) (addr : Addr) (v : Byte), s.live c → pageOf addr = s.pageByte c →
    s.cfg.idleTable = defaultIdleTable → v.getLsbD 4 = false → v.getLsbD 5 = false →
      ((s.chip c).timerA.state = .stop → v.getLsbD 0 = true → (s.chip c).timerA.value ≠ 0 → (s.chip c).timerA.value ≠ 1 →
        ∃ t1 t2 t3 : State,
          runOps [.wrCra c addr v, .cycle c] s = .next t1 ∧ runOps [.cycle c] t1 = .next t2 ∧
          runOps [.cycle c] t2 = .next t3 ∧
          (t1.chip c).timerA.state = .waitCount ∧ (t1.chip c).timerA.value = (s.chip c).timerA.value ∧
          (t2.chip c).timerA.state = .count ∧ (t2.chip c).timerA.value = (s.chip c).timerA.value ∧
          (t3.chip c).timerA.state = .count ∧ (t3.chip c).timerA.value = (s.chip c).timerA.value - 1) ∧
      ((s.chip c).timerA.state = .count → v.getLsbD 0 = false → 2 < (s.chip c).timerA.value.toNat →
        ∃ t1 t2 t3 : State,
          runOps [.wrCra c addr v, .cycle c] s = .next t1 ∧ runOps [.cycle c] t1 = .next t2 ∧
          runOps [.cycle c] t2 = .next t3 ∧
          (t1.chip c).timerA.state = .countStop ∧ (t1.chip c).timerA.value = (s.chip c).timerA.value - 1 ∧
          (t2.chip c).timerA.state = .stop ∧ (t2.chip c).timerA.value = (s.chip c).timerA.value - 2 ∧
          (t3.chip c).timerA.state = .stop ∧ (t3.chip c).timerA.value = (s.chip c).timerA.value - 2)

/-- The period of a free-running timer counting Phi2 (40_timer.md R120, which the spec derives): from an underflow cycle that left the
timer in `LoadCount` with latch `N`, the next underflow is in the `(N + 1)`-th cycle after it (the second when `N` is 0), and no cycle
between underflows. -/
def Obligations.FreeRunningPeriod : Prop :=
  ∀ (s : State) (c : Inst) (w : Which), s.live c →
    ((s.chip c).timer w).state = .loadCount → ((s.chip c).timer w).pendingValid = false →
    ((s.chip c).timer w).countsSystemClock = true → ((s.chip c).timer w).control.getLsbD 3 = false →
      let latch := ((s.chip c).timer w).latch
      let period := if latch = 0 then 2 else latch.toNat + 1
      (∃ t, runOps (List.replicate period (.cycle c)) s = .next t ∧
        ((t.chip c).timer w).state = .loadCount ∧ ((t.chip c).timer w).value = latch ∧
        ((t.chip c).timer w).latch = latch ∧ ((t.chip c).timer w).underflowedThisCycle = true) ∧
      (∀ n, 0 < n → n < period →
        ∃ t, runOps (List.replicate n (.cycle c)) s = .next t ∧ ((t.chip c).timer w).underflowedThisCycle = false)

/-- Timer B in cascade mode (40_timer.md R121, which the spec derives; decision D11, notes/assumptions/24.md): while it counts, it
decrements in the cycles in which timer A's countdown underflows and in no other; in any other state it counts nothing; a fired
interrupt of timer A from `LoadWaitCount` is no underflow. -/
def Obligations.CascadeCountsTimerAUnderflows : Prop :=
  ∀ (s t : State) (c : Inst), s.live c → exec (.cycle c) s = .next t →
    (s.chip c).timerB.countsSystemClock = false → (s.chip c).timerB.countsOtherTimerUnderflow = true →
      let before := (s.chip c).timerB
      let after := (t.chip c).timerB
      (before.state = .count ∨ before.state = .countStop →
        ((t.chip c).timerA.underflowedThisCycle = false →
          after.value = before.value ∧ after.underflowedThisCycle = false) ∧
        ((t.chip c).timerA.underflowedThisCycle = true → before.value ≠ 0 → before.value ≠ 1 →
          after.value = before.value - 1 ∧ after.underflowedThisCycle = false) ∧
        ((t.chip c).timerA.underflowedThisCycle = true → before.value = 0 ∨ before.value = 1 →
          after.underflowedThisCycle = true)) ∧
      (before.state ≠ .count → before.state ≠ .countStop →
        (after.value = before.value ∨ after.value = before.latch) ∧ after.underflowedThisCycle = false) ∧
      ((s.chip c).timerA.state = .loadWaitCount → (t.chip c).timerA.underflowedThisCycle = false)

/-- A control write staged in the cycle of a one-shot underflow is applied without its run bit: the timer goes to `LoadStop` and stops
(70_reset_and_hazards.md R284, which the spec derives; decision D7, notes/assumptions/8.md). -/
def Obligations.OneShotUnderflowLosesStagedRun : Prop :=
  ∀ (s : State) (c : Inst) (w : Which), s.live c → s.cfg.idleTable = defaultIdleTable →
    ((s.chip c).timer w).state = .count → ((s.chip c).timer w).countsSystemClock = true →
    ((s.chip c).timer w).value = 1 → ((s.chip c).timer w).control.getLsbD 3 = true →
    ((s.chip c).timer w).pendingValid = true →
      ∃ t u : State, exec (.cycle c) s = .next t ∧ exec (.cycle c) t = .next u ∧
        ((t.chip c).timer w).state = .loadStop ∧ ((t.chip c).timer w).control.getLsbD 0 = false ∧
        ((t.chip c).timer w).underflowedThisCycle = true ∧
        ((u.chip c).timer w).state = .stop ∧ ((u.chip c).timer w).value = ((s.chip c).timer w).latch

/-! ### Interrupts -/

/-- Nothing but the read of 0x0D and RESET clears a pending bit or lowers the line (60_exceptions.md section 4, R249;
70_reset_and_hazards.md R281, which the spec derives; decision D34, notes/assumptions/29.md). -/
def Obligations.OnlyAcknowledgeAndResetRetract : Prop :=
  ∀ (i : Instr) (s t : State) (c : Inst), exec i s = .next t → (∀ addr, i ≠ .rdIcr c addr) → i ≠ .reset c →
    (s.chip c).pending &&& ~~~(t.chip c).pending = 0 ∧ ((s.chip c).intLine = true → (t.chip c).intLine = true)

/-- An operation emits only events its instance can emit, after the events emitted before, and only on its own instance
(10_state.md section 8; 60_exceptions.md R246; the trace is decision D33, notes/assumptions/23.md). -/
def Obligations.TraceGrowsByOwnEvents : Prop :=
  ∀ (i : Instr) (s t : State) (c : Inst), exec i s = .next t →
    ∃ more : List Event, (t.chip c).out = (s.chip c).out ++ more ∧ (∀ e ∈ more, mayEmit c e = true) ∧
      (instOf i ≠ c → more = [])

/-- The bus's I/O bank as the shadow writes leave it: a write in page leaves its byte as written at its own unfolded address and every
other address as it was; every other operation, and a write that is fatal or on a stuck instance, leaves all of it (20_memory.md
section 4; decision D27, notes/assumptions/19.md). -/
def Obligations.ShadowBankFrame : Prop :=
  (∀ (i : Instr) (s t : State) (a : Addr) (v : Byte), exec i s = .next t → writeOf i = some (a, v) → s.live (instOf i) →
    pageOf a = s.pageByte (instOf i) →
      shadowAt (t.chip (instOf i)).out a = some v ∧
      ∀ b, b ≠ a → shadowAt (t.chip (instOf i)).out b = shadowAt (s.chip (instOf i)).out b) ∧
  (∀ (i : Instr) (s t : State), exec i s = .next t →
    (writeOf i = none ∨ ¬ s.live (instOf i) ∨
      ∃ a v, writeOf i = some (a, v) ∧ pageOf a ≠ s.pageByte (instOf i)) →
      ∀ (c : Inst) (b : Addr), shadowAt (t.chip c).out b = shadowAt (s.chip c).out b)

/-! ### The clock -/

/-- A tick of a halted clock changes nothing; of a running one it counts the divisor down, and when that reaches zero reloads it by
timer A's effective bit 7, advances the clock, and raises the alarm when clock and alarm agree in all four bytes (42_tod.md sections
1 and 5, R156, R167, R168; decisions D13 to D17, notes/assumptions/12.md and 14.md). -/
def Obligations.TodTickDividesAdvancesAndCompares : Prop :=
  ∀ (s : State) (c : Inst), s.live c →
    let ch := s.chip c
    let div := if ch.todDivisor = 0 then 0 else ch.todDivisor - 1
    let moved := { ch with
      todDivisor := if ch.timerA.control.getLsbD 7 then s.cfg.todDivBitSet else s.cfg.todDivBitClear
      tod := ch.tod.advance s.cfg.todHourStyle }
    (ch.todHalted = true → exec (.todTick c) s = .next (s.leaving c ch)) ∧
    (ch.todHalted = false → div ≠ 0 → exec (.todTick c) s = .next (s.leaving c { ch with todDivisor := div })) ∧
    (ch.todHalted = false → div = 0 → moved.tod ≠ ch.alarm → exec (.todTick c) s = .next (s.leaving c moved)) ∧
    (ch.todHalted = false → div = 0 → moved.tod = ch.alarm → ch.mask.getLsbD 2 = false →
      exec (.todTick c) s = .next (s.leaving c { moved with pending := ch.pending ||| 0x04 })) ∧
    (ch.todHalted = false → div = 0 → moved.tod = ch.alarm → ch.mask.getLsbD 2 = true →
      exec (.todTick c) s = .next (s.leaving c { moved with
        pending := ch.pending ||| 0x84, intLine := true,
        out := ch.out ++ [match c with | .one => .irq true | .two => .nmi true] }))

/-- What the carry arithmetic makes of any bytes in the clock, valid BCD or not (42_tod.md R158 to R161 and R162's default; the
algorithm is the spec's decision D18, notes/assumptions/13.md): a units digit of 9 or more becomes 0 and carries, a field of seconds or
minutes whose tens digit then exceeds 5 becomes 0 and carries, and hours above 0x11 become 0 with the flag toggled. -/
def Obligations.ClockCarriesOnAnyDigits : Prop :=
  ∀ (s t : State) (c : Inst), s.live c → exec (.todTick c) s = .next t → s.cfg.todHourStyle = .zeroToEleven →
    (s.chip c).todHalted = false → (s.chip c).todDivisor = 0 ∨ (s.chip c).todDivisor = 1 →
      let old := (s.chip c).tod
      let new := (t.chip c).tod
      (old.deciseconds.toNat % 16 < 9 →
        new = { old with deciseconds := BitVec.ofNat 8 (old.deciseconds.toNat % 16 + 1) }) ∧
      (9 ≤ old.deciseconds.toNat % 16 →
        (sixtyPlusOne old.seconds < 0x60 →
          new = { old with seconds := BitVec.ofNat 8 (sixtyPlusOne old.seconds), deciseconds := 0x00 }) ∧
        (0x60 ≤ sixtyPlusOne old.seconds → sixtyPlusOne old.minutes < 0x60 →
          new = { old with minutes := BitVec.ofNat 8 (sixtyPlusOne old.minutes), seconds := 0x00, deciseconds := 0x00 }) ∧
        (0x60 ≤ sixtyPlusOne old.seconds → 0x60 ≤ sixtyPlusOne old.minutes →
          (hourPlusOne old.hours ≤ 0x11 →
            new = ⟨BitVec.ofNat 8 (old.hours.toNat / 128 * 128 + hourPlusOne old.hours), 0x00, 0x00, 0x00⟩) ∧
          (0x11 < hourPlusOne old.hours →
            new = ⟨BitVec.ofNat 8 (128 - old.hours.toNat / 128 * 128), 0x00, 0x00, 0x00⟩)))

/-- A running clock that holds valid BCD is, at a tick whose divisor is 0 or 1, one tenth of a second later and valid, modulo one day
(42_tod.md R158 to R162, R169, 10_state.md R32; the hour sequence 0 to 11 is decision D18, notes/assumptions/13.md). -/
def Obligations.ValidClockAdvancesOneTenth : Prop :=
  ∀ (s t : State) (c : Inst), s.live c → exec (.todTick c) s = .next t → s.cfg.todHourStyle = .zeroToEleven →
    (s.chip c).todHalted = false → (s.chip c).todDivisor = 0 ∨ (s.chip c).todDivisor = 1 → validTime (s.chip c).tod →
      validTime (t.chip c).tod ∧ tenths (t.chip c).tod = (tenths (s.chip c).tod + 1) % 864000

/-- Hours under the alternative `one_to_twelve` (42_tod.md R162, vector set V14 of 95_test_vectors.md): 1 to 12, the flag toggling from
11 to 12; what the clock does after a minutes and seconds rollover, from each hour the spec gives a successor. That the flag is kept on
the other steps inside 1 to 12, and that the bytes 0x00, 0x19 and 0x1F, whose rows of V14 do not change, step so with bit 7 set too, is
DEDUCED (notes/assumptions/13.md). -/
def Obligations.TwelveHourStyleSequence : Prop :=
  ∀ (s t : State) (c : Inst), s.live c → exec (.todTick c) s = .next t → s.cfg.todHourStyle = .oneToTwelve →
    (s.chip c).todHalted = false → (s.chip c).todDivisor = 0 ∨ (s.chip c).todDivisor = 1 →
    (s.chip c).tod.minutes = 0x59 → (s.chip c).tod.seconds = 0x59 → (s.chip c).tod.deciseconds = 0x09 →
    ∀ pm : Bool, let flag : Byte := if pm then 0x80 else 0x00
      let other : Byte := if pm then 0x00 else 0x80
      ((s.chip c).tod.hours = flag ||| 0x12 → (t.chip c).tod = ⟨flag ||| 0x01, 0, 0, 0⟩) ∧
      ((s.chip c).tod.hours = flag ||| 0x11 → (t.chip c).tod = ⟨other ||| 0x12, 0, 0, 0⟩) ∧
      ((s.chip c).tod.hours = flag ||| 0x10 → (t.chip c).tod = ⟨flag ||| 0x11, 0, 0, 0⟩) ∧
      ((s.chip c).tod.hours = flag ||| 0x09 → (t.chip c).tod = ⟨flag ||| 0x10, 0, 0, 0⟩) ∧
      (∀ h : Byte, 1 ≤ h → h ≤ 8 → (s.chip c).tod.hours = flag ||| h → (t.chip c).tod = ⟨flag ||| (h + 1), 0, 0, 0⟩) ∧
      ((s.chip c).tod.hours = flag ||| 0x00 → (t.chip c).tod = ⟨flag ||| 0x01, 0, 0, 0⟩) ∧
      ((s.chip c).tod.hours = flag ||| 0x19 → (t.chip c).tod = ⟨other, 0, 0, 0⟩) ∧
      ((s.chip c).tod.hours = flag ||| 0x1F → (t.chip c).tod = ⟨other, 0, 0, 0⟩)

/-! ### Reset and host inputs -/

/-- RESET gives every element of the instance the value of the reset record, releases the line, keeps the trace but for one `LINE=0`,
and touches nothing of the other instance; the record is a parameter, and its default is the table of 10_state.md R49
(70_reset_and_hazards.md R270; the values are the spec's decision D28, notes/assumptions/6.md). -/
def Obligations.ResetRestoresTheRecord : Prop :=
  let timer : Timer :=
    { value := 0xFFFF, latch := 0xFFFF, control := 0x00, pendingControl := 0x00, pendingValid := false, state := .stop,
      countsSystemClock := true, countsOtherTimerUnderflow := false, underflowedThisCycle := false,
      interruptPendingNextCycle := false }
  let keys := #v[(0xFF : Byte), 0xFF, 0xFF, 0xFF, 0xFF, 0xFF, 0xFF, 0xFF]
  let record := fun (r : ResetRecord) (out : List Event) =>
    ({ timerA := r.timerA, timerB := r.timerB, mask := r.mask, pending := r.pending, tod := r.tod, alarm := r.alarm,
       todHalted := r.todHalted, todDivisor := r.todDivisor, portA := r.portA, portB := r.portB,
       directionA := r.directionA, directionB := r.directionB, sdr := r.sdr, intLine := false, out := out,
       fatal := none } : Chip)
  State.reset.cfg.resetRecord =
    { timerA := timer, timerB := timer, mask := 0x00, pending := 0x00, tod := ⟨0x00, 0x00, 0x00, 0x00⟩,
      alarm := ⟨0x00, 0x00, 0x00, 0x00⟩, todHalted := false, todDivisor := 0x00, portA := 0x00, portB := 0x00,
      directionA := 0x00, directionB := 0x00, sdr := 0x00, inst1 := ⟨keys, keys, 0xFF, 0xFF, 0x10⟩,
      serialBusLines := 0xC0 } ∧
  (∀ s : State, s.live .one →
    exec (.reset .one) s = .next { s with
      chip1 := record s.cfg.resetRecord (s.chip1.out ++ [.irq false]), inst1 := s.cfg.resetRecord.inst1,
      readData := none }) ∧
  (∀ s : State, s.live .two →
    exec (.reset .two) s = .next { s with
      chip2 := record s.cfg.resetRecord (s.chip2.out ++ [.nmi false]),
      serialBusLines := s.cfg.resetRecord.serialBusLines, readData := none })

/-- What a fresh instance's registers read (70_reset_and_hazards.md R272, which the spec derives from decision D28; notes/assumptions/6.md),
on both instances and at every mirror. -/
def Obligations.RegistersAfterReset : Prop :=
  ∀ (c : Inst) (m k : BitVec 4),
    ∃ (i : Instr) (t : State),
      decode (.bus c (State.reset.pageByte c) (readWord m k) 0) = .ok i ∧ exec i State.reset = .next t ∧
      t.readData = ([0xFF, 0xFF, 0x00, 0x00, 0xFF, 0xFF, 0xFF, 0xFF, 0x00, 0x00, 0x00, 0x00, 0x00, 0x00, 0x00, 0x00]
        : List Byte)[k.toNat]?

/-- HOSTKEY moves the one key it names, in both tables, and nothing else (43_register_file.md section 9, R213; decision D36,
notes/assumptions/18.md). -/
def Obligations.HostKeyMovesOneKey : Prop :=
  ∀ (s : State) (row column : Fin 8) (pressed : Bool), s.live .one →
    ∃ x : Instance1, exec (.hostKey row column pressed) s = .next { s with inst1 := x, readData := none } ∧
      x.joystick1 = s.inst1.joystick1 ∧ x.joystick2 = s.inst1.joystick2 ∧
      x.previousLightPenLine = s.inst1.previousLightPenLine ∧
      ∀ r k : Fin 8,
        x.keyMatrix[r].getLsbD k.val =
          (if r = row ∧ k = column then !pressed else s.inst1.keyMatrix[r].getLsbD k.val) ∧
        x.reverseKeyMatrix[k].getLsbD r.val =
          (if r = row ∧ k = column then !pressed else s.inst1.reverseKeyMatrix[k].getLsbD r.val)

/-- HOSTJOY and HOSTSER replace the byte they name and nothing else (43_register_file.md section 9; decisions D23 and D25,
notes/assumptions/17.md and 18.md). -/
def Obligations.HostJoystickAndSerialInputs : Prop :=
  (∀ (s : State) (v : Byte), s.live .one →
    exec (.hostJoy .one v) s = .next { s with inst1 := { s.inst1 with joystick1 := v }, readData := none } ∧
    exec (.hostJoy .two v) s = .next { s with inst1 := { s.inst1 with joystick2 := v }, readData := none }) ∧
  (∀ (s : State) (v : Byte), s.live .two →
    exec (.hostSer v) s = .next { s with serialBusLines := v, readData := none })

/-! ### Whole-machine rules -/

/-- An operation on one instance leaves the other's record and inputs, the parameters and the inbox as they are (20_memory.md R73, which
the spec derives; 10_state.md R48; notes/assumptions/2.md). -/
def Obligations.InstancesShareNothing : Prop :=
  ∀ (i : Instr) (s t : State), exec i s = .next t →
    t.chip (otherInst (instOf i)) = s.chip (otherInst (instOf i)) ∧
    (instOf i = .two → t.inst1 = s.inst1) ∧ (instOf i = .one → t.serialBusLines = s.serialBusLines) ∧
    t.cfg = s.cfg ∧ t.inbox = s.inbox

/-- Operations on different instances commute: in either order they leave the same state but for the byte returned last
(20_memory.md R73, which the spec derives). -/
def Obligations.OperationsOnDifferentInstancesCommute : Prop :=
  ∀ (i j : Instr) (s : State), instOf i ≠ instOf j →
    ∃ t u : State, runOps [i, j] s = .next t ∧ runOps [j, i] s = .next u ∧
      { t with readData := none } = { u with readData := none }

/-- The invariant of the states between operations is kept by every step (10_state.md R25 to R30, R35, 30_encoding.md R86,
41_interrupt_controller.md R143, R147, 43_register_file.md R196). Its first part asks that the parameters be such that the TOD write
masks keep the field formats and that the reset record meet the invariant, as the defaults do; no operation changes them
(10_state.md R48; notes/assumptions/2.md). -/
def Obligations.StepKeepsInvariant : Prop :=
  ∀ s t : State, StateInv s → step s = .next t → StateInv t

/-- The invariant holds at reset (10_state.md R49). -/
def Obligations.ResetSatisfiesInvariant : Prop :=
  StateInv State.reset

/-! ### Rules that rest on no decision -/

/-- R202, R204: the write of a low latch byte, at any mirror, gives the latch its low half and leaves the live value and the rest of the
timer, running or stopped. -/
def Obligations.LowLatchByteReplacesItsHalf : Prop :=
  ∀ (s : State) (c : Inst) (m : BitVec 4) (v : Byte), s.live c →
    (∃ t : State,
      decode (.bus c (s.pageByte c) (writeWord m 0x4) v) = .ok (.wrTalo c (s.regAddr c m 0x4) v) ∧
      exec (.wrTalo c (s.regAddr c m 0x4) v) s = .next t ∧
      (t.chip c).timerA = { (s.chip c).timerA with latch := ((s.chip c).timerA.latch &&& 0xFF00) ||| v.setWidth 16 } ∧
      (t.chip c).timerB = (s.chip c).timerB) ∧
    (∃ t : State,
      decode (.bus c (s.pageByte c) (writeWord m 0x6) v) = .ok (.wrTblo c (s.regAddr c m 0x6) v) ∧
      exec (.wrTblo c (s.regAddr c m 0x6) v) s = .next t ∧
      (t.chip c).timerB = { (s.chip c).timerB with latch := ((s.chip c).timerB.latch &&& 0xFF00) ||| v.setWidth 16 } ∧
      (t.chip c).timerA = (s.chip c).timerA)

/-- R144: the acknowledge returns `pending` as it was, enabled and disabled sources and the summary bit alike, clears all of it, and
releases the line whether or not it was asserted; the mask and the timers' delivery flags stay. -/
def Obligations.ReadAndClearReturnsEverySource : Prop :=
  ∀ (s : State) (c : Inst) (addr : Addr), s.live c → pageOf addr = s.pageByte c →
    ∃ t : State, exec (.rdIcr c addr) s = .next t ∧
      t.readData = some (s.chip c).pending ∧ (t.chip c).pending = 0x00 ∧ (t.chip c).intLine = false ∧
      (t.chip c).out = (s.chip c).out ++ [match c with | .one => .irq false | .two => .nmi false] ∧
      (t.chip c).mask = (s.chip c).mask ∧
      (t.chip c).timerA.interruptPendingNextCycle = (s.chip c).timerA.interruptPendingNextCycle ∧
      (t.chip c).timerB.interruptPendingNextCycle = (s.chip c).timerB.interruptPendingNextCycle

/-- R141: raising sources latches their bits, enabled or not; when one of them is enabled, and only then, it also sets the summary bit
and answers that the line is to be asserted; raising again what is pending changes nothing and answers the same. -/
def Obligations.RaiseLatchesAndTellsWhetherEnabled : Prop :=
  ∀ (ch : Chip) (m : Byte),
    (ch.mask &&& m = 0 → ch.raise m = ({ ch with pending := ch.pending ||| m }, false)) ∧
    (ch.mask &&& m ≠ 0 → ch.raise m = ({ ch with pending := ch.pending ||| m ||| 0x80 }, true)) ∧
    (ch.raise m).1.raise m = ch.raise m
end

