-- ==== Sys2Proof/Laws/State.lean ====
section
/-! SUPPORT. The small lemmas of the state record: what each update of Machine/Ops.lean leaves in each field, so that no proof
unfolds a record update. -/

namespace Sys2Proof.Machine

/-! ### The chip of an instance -/

@[simp] theorem chip_one (s : State) : s.chip .one = s.chip1 := rfl
@[simp] theorem chip_two (s : State) : s.chip .two = s.chip2 := rfl
@[simp] theorem setChip_one (s : State) (ch : Chip) : s.setChip .one ch = { s with chip1 := ch } := rfl
@[simp] theorem setChip_two (s : State) (ch : Chip) : s.setChip .two ch = { s with chip2 := ch } := rfl

@[simp] theorem chip_setChip_same (s : State) (c : Inst) (ch : Chip) : (s.setChip c ch).chip c = ch := by
  cases c <;> rfl
@[simp] theorem chip_setChip_other (s : State) (c : Inst) (ch : Chip) :
    (s.setChip c ch).chip (otherInst c) = s.chip (otherInst c) := by
  cases c <;> rfl
theorem chip_setChip_ne (s : State) {c d : Inst} (ch : Chip) (h : d ≠ c) : (s.setChip c ch).chip d = s.chip d := by
  cases c <;> cases d <;> first | rfl | exact absurd rfl h
@[simp] theorem setChip_chip (s : State) (c : Inst) : s.setChip c (s.chip c) = s := by cases c <;> rfl
@[simp] theorem setChip_setChip (s : State) (c : Inst) (x y : Chip) : (s.setChip c x).setChip c y = s.setChip c y := by
  cases c <;> rfl

@[simp] theorem setChip_cfg (s : State) (c : Inst) (ch : Chip) : (s.setChip c ch).cfg = s.cfg := by cases c <;> rfl
@[simp] theorem setChip_inst1 (s : State) (c : Inst) (ch : Chip) : (s.setChip c ch).inst1 = s.inst1 := by
  cases c <;> rfl
@[simp] theorem setChip_serial (s : State) (c : Inst) (ch : Chip) :
    (s.setChip c ch).serialBusLines = s.serialBusLines := by cases c <;> rfl
@[simp] theorem setChip_readData (s : State) (c : Inst) (ch : Chip) : (s.setChip c ch).readData = s.readData := by
  cases c <;> rfl
@[simp] theorem setChip_inbox (s : State) (c : Inst) (ch : Chip) : (s.setChip c ch).inbox = s.inbox := by
  cases c <;> rfl

theorem mapChip_eq (s : State) (c : Inst) (f : Chip → Chip) : s.mapChip c f = s.setChip c (f (s.chip c)) := rfl
@[simp] theorem chip_mapChip_same (s : State) (c : Inst) (f : Chip → Chip) :
    (s.mapChip c f).chip c = f (s.chip c) := chip_setChip_same ..
@[simp] theorem chip_mapChip_other (s : State) (c : Inst) (f : Chip → Chip) :
    (s.mapChip c f).chip (otherInst c) = s.chip (otherInst c) := chip_setChip_other ..
@[simp] theorem mapChip_cfg (s : State) (c : Inst) (f : Chip → Chip) : (s.mapChip c f).cfg = s.cfg := setChip_cfg ..
@[simp] theorem mapChip_inst1 (s : State) (c : Inst) (f : Chip → Chip) : (s.mapChip c f).inst1 = s.inst1 :=
  setChip_inst1 ..
@[simp] theorem mapChip_serial (s : State) (c : Inst) (f : Chip → Chip) :
    (s.mapChip c f).serialBusLines = s.serialBusLines := setChip_serial ..
@[simp] theorem mapChip_readData (s : State) (c : Inst) (f : Chip → Chip) : (s.mapChip c f).readData = s.readData :=
  setChip_readData ..
@[simp] theorem mapChip_inbox (s : State) (c : Inst) (f : Chip → Chip) : (s.mapChip c f).inbox = s.inbox :=
  setChip_inbox ..
@[simp] theorem mapChip_mapChip (s : State) (c : Inst) (f g : Chip → Chip) :
    (s.mapChip c f).mapChip c g = s.mapChip c fun ch => g (f ch) := by cases c <;> rfl

@[simp] theorem noData_chip (s : State) (c : Inst) : s.noData.chip c = s.chip c := by cases c <;> rfl
@[simp] theorem noData_chip1 (s : State) : s.noData.chip1 = s.chip1 := rfl
@[simp] theorem noData_chip2 (s : State) : s.noData.chip2 = s.chip2 := rfl
@[simp] theorem noData_cfg (s : State) : s.noData.cfg = s.cfg := rfl
@[simp] theorem noData_inst1 (s : State) : s.noData.inst1 = s.inst1 := rfl
@[simp] theorem noData_serial (s : State) : s.noData.serialBusLines = s.serialBusLines := rfl
@[simp] theorem noData_readData (s : State) : s.noData.readData = none := rfl
@[simp] theorem noData_inbox (s : State) : s.noData.inbox = s.inbox := rfl
@[simp] theorem noData_noData (s : State) : s.noData.noData = s.noData := rfl

/-- The same answer said the way the statements say it. -/
theorem noData_setChip (s : State) (c : Inst) (ch : Chip) : (s.setChip c ch).noData = s.leaving c ch := rfl
theorem leaving_eq (s : State) (c : Inst) (ch : Chip) : s.leaving c ch = { s.setChip c ch with readData := none } := rfl
@[simp] theorem leaving_chip_same (s : State) (c : Inst) (ch : Chip) : (s.leaving c ch).chip c = ch := by
  cases c <;> rfl
@[simp] theorem leaving_chip_other (s : State) (c : Inst) (ch : Chip) :
    (s.leaving c ch).chip (otherInst c) = s.chip (otherInst c) := by cases c <;> rfl
@[simp] theorem leaving_one_chip1 (s : State) (ch : Chip) : (s.leaving .one ch).chip1 = ch := rfl
@[simp] theorem leaving_one_chip2 (s : State) (ch : Chip) : (s.leaving .one ch).chip2 = s.chip2 := rfl
@[simp] theorem leaving_two_chip1 (s : State) (ch : Chip) : (s.leaving .two ch).chip1 = s.chip1 := rfl
@[simp] theorem leaving_two_chip2 (s : State) (ch : Chip) : (s.leaving .two ch).chip2 = ch := rfl
@[simp] theorem leaving_cfg (s : State) (c : Inst) (ch : Chip) : (s.leaving c ch).cfg = s.cfg := by cases c <;> rfl
@[simp] theorem leaving_inst1 (s : State) (c : Inst) (ch : Chip) : (s.leaving c ch).inst1 = s.inst1 := by
  cases c <;> rfl
@[simp] theorem leaving_serial (s : State) (c : Inst) (ch : Chip) :
    (s.leaving c ch).serialBusLines = s.serialBusLines := by cases c <;> rfl
@[simp] theorem leaving_readData (s : State) (c : Inst) (ch : Chip) : (s.leaving c ch).readData = none := rfl
@[simp] theorem leaving_inbox (s : State) (c : Inst) (ch : Chip) : (s.leaving c ch).inbox = s.inbox := by
  cases c <;> rfl

/-! ### Events and the line -/

@[simp] theorem emit_out (e : Event) (ch : Chip) : (ch.emit e).out = ch.out ++ [e] := rfl
@[simp] theorem emit_timerA (e : Event) (ch : Chip) : (ch.emit e).timerA = ch.timerA := rfl
@[simp] theorem emit_timerB (e : Event) (ch : Chip) : (ch.emit e).timerB = ch.timerB := rfl
@[simp] theorem emit_mask (e : Event) (ch : Chip) : (ch.emit e).mask = ch.mask := rfl
@[simp] theorem emit_pending (e : Event) (ch : Chip) : (ch.emit e).pending = ch.pending := rfl
@[simp] theorem emit_tod (e : Event) (ch : Chip) : (ch.emit e).tod = ch.tod := rfl
@[simp] theorem emit_alarm (e : Event) (ch : Chip) : (ch.emit e).alarm = ch.alarm := rfl
@[simp] theorem emit_portA (e : Event) (ch : Chip) : (ch.emit e).portA = ch.portA := rfl
@[simp] theorem emit_portB (e : Event) (ch : Chip) : (ch.emit e).portB = ch.portB := rfl
@[simp] theorem emit_directionA (e : Event) (ch : Chip) : (ch.emit e).directionA = ch.directionA := rfl
@[simp] theorem emit_directionB (e : Event) (ch : Chip) : (ch.emit e).directionB = ch.directionB := rfl
@[simp] theorem emit_intLine (e : Event) (ch : Chip) : (ch.emit e).intLine = ch.intLine := rfl
@[simp] theorem emit_fatal (e : Event) (ch : Chip) : (ch.emit e).fatal = ch.fatal := rfl

theorem signalLine_eq (c : Inst) (ch : Chip) :
    ch.signalLine c = { ch with out := ch.out ++ [lineEvent c true], intLine := true } := rfl
theorem releaseLine_eq (c : Inst) (ch : Chip) :
    ch.releaseLine c = { ch with out := ch.out ++ [lineEvent c false], intLine := false } := rfl
theorem lineEvent_eq (c : Inst) (b : Bool) : lineEvent c b = match c with | .one => .irq b | .two => .nmi b := rfl

/-! ### The latch and control updates of a timer -/

@[simp] theorem writeLatchLo_value (v : Byte) (t : Timer) : (t.writeLatchLo v).value = t.value := rfl
@[simp] theorem writeLatchLo_latch (v : Byte) (t : Timer) : (t.writeLatchLo v).latch = withLo8 t.latch v := rfl
@[simp] theorem writeLatchLo_control (v : Byte) (t : Timer) : (t.writeLatchLo v).control = t.control := rfl
@[simp] theorem writeLatchHi_latch (v : Byte) (t : Timer) : (t.writeLatchHi v).latch = withHi8 t.latch v := by
  unfold Timer.writeLatchHi; split <;> rfl
@[simp] theorem writeLatchHi_control (v : Byte) (t : Timer) : (t.writeLatchHi v).control = t.control := by
  unfold Timer.writeLatchHi; split <;> rfl
@[simp] theorem writeLatchHi_state (v : Byte) (t : Timer) : (t.writeLatchHi v).state = t.state := by
  unfold Timer.writeLatchHi; split <;> rfl
@[simp] theorem stageControl_control (v : Byte) (t : Timer) : (t.stageControl v).control = t.control := rfl
@[simp] theorem stageControl_state (v : Byte) (t : Timer) : (t.stageControl v).state = t.state := rfl
@[simp] theorem stageControl_pendingControl (v : Byte) (t : Timer) : (t.stageControl v).pendingControl = v := rfl
@[simp] theorem stageControl_pendingValid (v : Byte) (t : Timer) : (t.stageControl v).pendingValid = true := rfl

end Sys2Proof.Machine
end

