-- ==== Sys2Proof/Laws/Ops.lean ====
section
/-! SUPPORT. One lemma per shared operation that says everything it can do, to be cited instead of unfolding it. -/

namespace Sys2Proof.Machine

/-! ### Entry points -/

theorem stuck_iff (s : State) (c : Inst) : s.stuck c = true ↔ ¬ s.live c := by
  simp [State.stuck, State.live, Option.isSome_iff_ne_none]

theorem inPage_iff (s : State) (c : Inst) (addr : Addr) : s.inPage c addr = true ↔ pageOf addr = s.pageByte c := by
  simp [State.inPage, State.pageByte]

theorem busRead_stuck {s : State} {c : Inst} (addr : Addr) (rd : State → Byte × State) (h : ¬ s.live c) :
    s.busRead c addr rd = .next s.noData := by
  simp [State.busRead, (stuck_iff s c).2 h]

theorem busRead_inPage {s : State} {c : Inst} {addr : Addr} (rd : State → Byte × State) (h : s.live c)
    (hp : pageOf addr = s.pageByte c) :
    s.busRead c addr rd = .next { (rd s).2 with readData := some (rd s).1 } := by
  have hs : s.stuck c = false := by simpa [State.stuck] using h
  simp [State.busRead, hs, (inPage_iff s c addr).2 hp]

theorem busRead_outOfPage {s : State} {c : Inst} {addr : Addr} (rd : State → Byte × State) (h : s.live c)
    (hp : pageOf addr ≠ s.pageByte c) : s.busRead c addr rd = .next (s.raiseFatal c addr) := by
  have hs : s.stuck c = false := by simpa [State.stuck] using h
  have hn : s.inPage c addr = false := by simpa using fun e => hp ((inPage_iff s c addr).1 e)
  simp [State.busRead, hs, hn]

/-- Everything a bus read can do. -/
theorem busRead_cases {s t : State} {c : Inst} {addr : Addr} {rd : State → Byte × State}
    (h : s.busRead c addr rd = .next t) :
    (¬ s.live c ∧ t = s.noData) ∨
    (s.live c ∧ pageOf addr = s.pageByte c ∧ t = { (rd s).2 with readData := some (rd s).1 }) ∨
    (s.live c ∧ pageOf addr ≠ s.pageByte c ∧ t = s.raiseFatal c addr) := by
  by_cases hl : s.live c
  · by_cases hp : pageOf addr = s.pageByte c
    · rw [busRead_inPage rd hl hp] at h
      exact .inr (.inl ⟨hl, hp, by injection h with h; exact h.symm⟩)
    · rw [busRead_outOfPage rd hl hp] at h
      exact .inr (.inr ⟨hl, hp, by injection h with h; exact h.symm⟩)
  · rw [busRead_stuck addr rd hl] at h
    exact .inl ⟨hl, by injection h with h; exact h.symm⟩

theorem busWrite_stuck {s : State} {c : Inst} (addr : Addr) (v : Byte) (wr : State → State) (h : ¬ s.live c) :
    s.busWrite c addr v wr = .next s.noData := by
  simp [State.busWrite, (stuck_iff s c).2 h]

theorem busWrite_inPage {s : State} {c : Inst} {addr : Addr} (v : Byte) (wr : State → State) (h : s.live c)
    (hp : pageOf addr = s.pageByte c) :
    s.busWrite c addr v wr = .next (wr (s.mapChip c (Chip.emit (.shadow addr v)))).noData := by
  have hs : s.stuck c = false := by simpa [State.stuck] using h
  simp [State.busWrite, hs, (inPage_iff s c addr).2 hp]

theorem busWrite_outOfPage {s : State} {c : Inst} {addr : Addr} (v : Byte) (wr : State → State) (h : s.live c)
    (hp : pageOf addr ≠ s.pageByte c) : s.busWrite c addr v wr = .next (s.raiseFatal c addr) := by
  have hs : s.stuck c = false := by simpa [State.stuck] using h
  have hn : s.inPage c addr = false := by simpa using fun e => hp ((inPage_iff s c addr).1 e)
  simp [State.busWrite, hs, hn]

/-- Everything a bus write can do. -/
theorem busWrite_cases {s t : State} {c : Inst} {addr : Addr} {v : Byte} {wr : State → State}
    (h : s.busWrite c addr v wr = .next t) :
    (¬ s.live c ∧ t = s.noData) ∨
    (s.live c ∧ pageOf addr = s.pageByte c ∧ t = (wr (s.mapChip c (Chip.emit (.shadow addr v)))).noData) ∨
    (s.live c ∧ pageOf addr ≠ s.pageByte c ∧ t = s.raiseFatal c addr) := by
  by_cases hl : s.live c
  · by_cases hp : pageOf addr = s.pageByte c
    · rw [busWrite_inPage v wr hl hp] at h
      exact .inr (.inl ⟨hl, hp, by injection h with h; exact h.symm⟩)
    · rw [busWrite_outOfPage v wr hl hp] at h
      exact .inr (.inr ⟨hl, hp, by injection h with h; exact h.symm⟩)
  · rw [busWrite_stuck addr v wr hl] at h
    exact .inl ⟨hl, by injection h with h; exact h.symm⟩

theorem pinEvent_stuck {s : State} {c : Inst} (ev : State → State) (h : ¬ s.live c) :
    s.pinEvent c ev = .next s.noData := by
  simp [State.pinEvent, (stuck_iff s c).2 h]

theorem pinEvent_live {s : State} {c : Inst} (ev : State → State) (h : s.live c) :
    s.pinEvent c ev = .next (ev s).noData := by
  have hs : s.stuck c = false := by simpa [State.stuck] using h
  simp [State.pinEvent, hs]

/-- Everything a pin event can do. -/
theorem pinEvent_cases {s t : State} {c : Inst} {ev : State → State} (h : s.pinEvent c ev = .next t) :
    (¬ s.live c ∧ t = s.noData) ∨ (s.live c ∧ t = (ev s).noData) := by
  by_cases hl : s.live c
  · rw [pinEvent_live ev hl] at h
    exact .inr ⟨hl, by injection h with h; exact h.symm⟩
  · rw [pinEvent_stuck ev hl] at h
    exact .inl ⟨hl, by injection h with h; exact h.symm⟩

theorem raiseFatal_eq (s : State) (c : Inst) (addr : Addr) :
    s.raiseFatal c addr = s.leaving c { s.chip c with fatal := some addr } := rfl

/-! ### Interrupts -/

theorem enabled_iff (ch : Chip) (m : Byte) : ch.enabled m = true ↔ ch.mask &&& m ≠ 0 := by simp [Chip.enabled]

/-- Everything raising a source does (41_interrupt_controller.md R141, R143). -/
theorem raiseAndSignal_eq (c : Inst) (m : Byte) (ch : Chip) :
    ch.raiseAndSignal c m =
      if ch.enabled m then
        { ch with pending := (ch.pending ||| m) ||| 0x80, intLine := true, out := ch.out ++ [lineEvent c true] }
      else { ch with pending := ch.pending ||| m } := by
  unfold Chip.raiseAndSignal Chip.raise
  split <;> rfl

/-- Everything a mask write does (41_interrupt_controller.md R142). -/
theorem writeMask_eq (c : Inst) (v : Byte) (ch : Chip) :
    ch.writeMask c v =
      if ch.pending &&& maskAfter ch.mask v &&& 0x1F = 0 then { ch with mask := maskAfter ch.mask v }
      else { ch with mask := maskAfter ch.mask v, pending := ch.pending ||| 0x80, intLine := true,
                     out := ch.out ++ [lineEvent c true] } := by
  unfold Chip.writeMask
  by_cases h : ch.pending &&& maskAfter ch.mask v &&& 0x1F = 0 <;>
    simp_all [summaryGate, signalLine_eq, summaryBit]

/-- Everything the acknowledge does (41_interrupt_controller.md R144). -/
theorem acknowledge_eq (c : Inst) (ch : Chip) :
    ch.acknowledge c = { ch with pending := 0x00, intLine := false, out := ch.out ++ [lineEvent c false] } := rfl

/-! ### Halves of a timer quantity -/

theorem withLo8_eq (w : Count) (v : Byte) : withLo8 w v = w.extractLsb' 8 8 ++ v := by
  apply BitVec.eq_of_getLsbD_eq
  intro i hi
  simp only [withLo8, BitVec.getLsbD_or, BitVec.getLsbD_and, BitVec.getLsbD_setWidth, BitVec.getLsbD_append,
    BitVec.getLsbD_extractLsb']
  interval_cases i <;> simp

theorem withHi8_eq (w : Count) (v : Byte) : withHi8 w v = v ++ w.extractLsb' 0 8 := by
  apply BitVec.eq_of_getLsbD_eq
  intro i hi
  simp only [withHi8, BitVec.getLsbD_or, BitVec.getLsbD_and, BitVec.getLsbD_setWidth, BitVec.getLsbD_append,
    BitVec.getLsbD_extractLsb', BitVec.getLsbD_shiftLeft]
  interval_cases i <;> simp

end Sys2Proof.Machine
end

