-- ==== Sys2Proof/Laws/Decode.lean ====
section
/-! SUPPORT. What the decoder answers for a read word and a write word, and that its operation map is unambiguous (30_encoding.md R81,
R84; 43_register_file.md R181, R182). -/

namespace Sys2Proof.Machine

/-! ### The operation map -/

/-- Every bus row has the mask 0x10F of 30_encoding.md R81. -/
theorem opRows_mask : ∀ r ∈ opRows, r.mask = 0x10F := by decide

/-- No two rows match one word on one instance. -/
theorem opRows_disjoint :
    opRows.Pairwise fun r q => r.bits ≠ q.bits ∨ (r.only ≠ none ∧ q.only ≠ none ∧ r.only ≠ q.only) := by decide

/-- The mirror bits of a word do not select its row. -/
theorem find_row_congr (c : Inst) {w w' : OpWord} (h : w &&& 0x10F = w' &&& 0x10F) :
    opRows.find? (rowMatches c w) = opRows.find? (rowMatches c w') := by
  have e : ∀ r ∈ opRows, rowMatches c w r = rowMatches c w' r := fun r hr => by
    simp only [rowMatches, opRows_mask r hr, h]
  generalize opRows = rows at e ⊢
  induction rows with
  | nil => rfl
  | cons r rows ih =>
    simp only [List.find?_cons, e r (by simp)]
    split
    · rfl
    · exact ih fun q hq => e q (by simp [hq])

/-! ### Words and addresses -/

theorem readWord_masked (m k : BitVec 4) : readWord m k &&& 0x10F = (0#5 ++ k) &&& 0x10F := by
  apply BitVec.eq_of_getLsbD_eq
  intro i hi
  simp only [readWord, BitVec.getLsbD_and, BitVec.getLsbD_append]
  interval_cases i <;> simp

theorem writeWord_masked (m k : BitVec 4) : writeWord m k &&& 0x10F = (0x10#5 ++ k) &&& 0x10F := by
  apply BitVec.eq_of_getLsbD_eq
  intro i hi
  simp only [writeWord, BitVec.getLsbD_and, BitVec.getLsbD_append]
  interval_cases i <;> simp

theorem readWord_rw (m k : BitVec 4) : (readWord m k).getLsbD 8 = false := by
  simp only [readWord, BitVec.getLsbD_append]
  rfl

theorem writeWord_rw (m k : BitVec 4) : (writeWord m k).getLsbD 8 = true := by
  simp only [writeWord, BitVec.getLsbD_append]
  rfl

theorem addrOf_readWord (page : Byte) (m k : BitVec 4) : addrOf page ((readWord m k).extractLsb' 0 8) = page ++ m ++ k := by
  apply BitVec.eq_of_getLsbD_eq
  intro i hi
  simp only [addrOf, readWord, BitVec.getLsbD_append, BitVec.getLsbD_extractLsb']
  interval_cases i <;> simp

theorem addrOf_writeWord (page : Byte) (m k : BitVec 4) : addrOf page ((writeWord m k).extractLsb' 0 8) = page ++ m ++ k := by
  apply BitVec.eq_of_getLsbD_eq
  intro i hi
  simp only [addrOf, writeWord, BitVec.getLsbD_append, BitVec.getLsbD_extractLsb']
  interval_cases i <;> simp

@[simp] theorem addrOf_pageOf_lowOf (a : Addr) : addrOf (pageOf a) (lowOf a) = a := by
  apply BitVec.eq_of_getLsbD_eq
  intro i hi
  simp only [addrOf, pageOf, lowOf, BitVec.getLsbD_append, BitVec.getLsbD_extractLsb']
  interval_cases i <;> simp

@[simp] theorem pageOf_regAddr (s : State) (c : Inst) (m k : BitVec 4) : pageOf (s.regAddr c m k) = s.pageByte c := by
  apply BitVec.eq_of_getLsbD_eq
  intro i hi
  simp only [pageOf, State.regAddr, BitVec.getLsbD_append, BitVec.getLsbD_extractLsb']
  interval_cases i <;> simp

@[simp] theorem offsetOf_regAddr (s : State) (c : Inst) (m k : BitVec 4) : offsetOf (s.regAddr c m k) = k := by
  apply BitVec.eq_of_getLsbD_eq
  intro i hi
  simp only [offsetOf, State.regAddr, BitVec.getLsbD_append, BitVec.getLsbD_extractLsb']
  interval_cases i <;> simp

/-- The mirror nibble of an address. -/
theorem lowOf_eq (a : Addr) : lowOf a = a.extractLsb' 4 4 ++ offsetOf a := by
  apply BitVec.eq_of_getLsbD_eq
  intro i hi
  simp only [lowOf, offsetOf, BitVec.getLsbD_append, BitVec.getLsbD_extractLsb']
  interval_cases i <;> simp

theorem readRequest_eq (c : Inst) (a : Addr) :
    readRequest c a = .bus c (pageOf a) (readWord (a.extractLsb' 4 4) (offsetOf a)) 0 := by
  have h : (0#1 ++ lowOf a : OpWord) = readWord (a.extractLsb' 4 4) (offsetOf a) := by
    rw [lowOf_eq]
    apply BitVec.eq_of_getLsbD_eq
    intro i hi
    simp only [readWord, BitVec.getLsbD_append]
    interval_cases i <;> simp
  simp only [readRequest, h]

theorem writeRequest_eq (c : Inst) (a : Addr) (v : Byte) :
    writeRequest c a v = .bus c (pageOf a) (writeWord (a.extractLsb' 4 4) (offsetOf a)) v := by
  have h : (1#1 ++ lowOf a : OpWord) = writeWord (a.extractLsb' 4 4) (offsetOf a) := by
    rw [lowOf_eq]
    apply BitVec.eq_of_getLsbD_eq
    intro i hi
    simp only [writeWord, BitVec.getLsbD_append]
    interval_cases i <;> simp
  simp only [writeRequest, h]

/-! ### The dispatch -/

/-- A read word decodes to the read row of its offset at the address it names; give the row by `rfl`. -/
theorem decode_readWord {c : Inst} {k : BitVec 4} {r : OpRow} (h : opRows.find? (rowMatches c (0#5 ++ k)) = some r)
    (page : Byte) (m : BitVec 4) (data : Byte) :
    decode (.bus c page (readWord m k) data) = .ok (r.build c (page ++ m ++ k) data) := by
  simp only [decode, decodeBus, find_row_congr c (readWord_masked m k), h, addrOf_readWord]

/-- A write word decodes to the write row of its offset at the address it names; give the row by `rfl`. -/
theorem decode_writeWord {c : Inst} {k : BitVec 4} {r : OpRow} (h : opRows.find? (rowMatches c (0x10#5 ++ k)) = some r)
    (page : Byte) (m : BitVec 4) (v : Byte) :
    decode (.bus c page (writeWord m k) v) = .ok (r.build c (page ++ m ++ k) v) := by
  simp only [decode, decodeBus, find_row_congr c (writeWord_masked m k), h, addrOf_writeWord]

/-! ### Row by row -/

theorem decode_rdPra1 (page : Byte) (m : BitVec 4) (data : Byte) :
    decode (.bus .one page (readWord m 0x0) data) = .ok (.rdPra1 (page ++ m ++ 0x0#4)) :=
  decode_readWord (r := readRowOf .one 0x0 .rdPra1) rfl page m data
theorem decode_rdPra2 (page : Byte) (m : BitVec 4) (data : Byte) :
    decode (.bus .two page (readWord m 0x0) data) = .ok (.rdPra2 (page ++ m ++ 0x0#4)) :=
  decode_readWord (r := readRowOf .two 0x0 .rdPra2) rfl page m data
theorem decode_rdPrb1 (page : Byte) (m : BitVec 4) (data : Byte) :
    decode (.bus .one page (readWord m 0x1) data) = .ok (.rdPrb1 (page ++ m ++ 0x1#4)) :=
  decode_readWord (r := readRowOf .one 0x1 .rdPrb1) rfl page m data
theorem decode_rdPrb2 (page : Byte) (m : BitVec 4) (data : Byte) :
    decode (.bus .two page (readWord m 0x1) data) = .ok (.rdPrb2 (page ++ m ++ 0x1#4)) :=
  decode_readWord (r := readRowOf .two 0x1 .rdPrb2) rfl page m data
theorem decode_rdDdra (c : Inst) (page : Byte) (m : BitVec 4) (data : Byte) :
    decode (.bus c page (readWord m 0x2) data) = .ok (.rdDdra c (page ++ m ++ 0x2#4)) :=
  decode_readWord (r := readRow 0x2 .rdDdra) (by cases c <;> rfl) page m data
theorem decode_rdDdrb (c : Inst) (page : Byte) (m : BitVec 4) (data : Byte) :
    decode (.bus c page (readWord m 0x3) data) = .ok (.rdDdrb c (page ++ m ++ 0x3#4)) :=
  decode_readWord (r := readRow 0x3 .rdDdrb) (by cases c <;> rfl) page m data
theorem decode_rdTalo (c : Inst) (page : Byte) (m : BitVec 4) (data : Byte) :
    decode (.bus c page (readWord m 0x4) data) = .ok (.rdTalo c (page ++ m ++ 0x4#4)) :=
  decode_readWord (r := readRow 0x4 .rdTalo) (by cases c <;> rfl) page m data
theorem decode_rdTahi (c : Inst) (page : Byte) (m : BitVec 4) (data : Byte) :
    decode (.bus c page (readWord m 0x5) data) = .ok (.rdTahi c (page ++ m ++ 0x5#4)) :=
  decode_readWord (r := readRow 0x5 .rdTahi) (by cases c <;> rfl) page m data
theorem decode_rdTblo (c : Inst) (page : Byte) (m : BitVec 4) (data : Byte) :
    decode (.bus c page (readWord m 0x6) data) = .ok (.rdTblo c (page ++ m ++ 0x6#4)) :=
  decode_readWord (r := readRow 0x6 .rdTblo) (by cases c <;> rfl) page m data
theorem decode_rdTbhi (c : Inst) (page : Byte) (m : BitVec 4) (data : Byte) :
    decode (.bus c page (readWord m 0x7) data) = .ok (.rdTbhi c (page ++ m ++ 0x7#4)) :=
  decode_readWord (r := readRow 0x7 .rdTbhi) (by cases c <;> rfl) page m data
theorem decode_rdTod10 (c : Inst) (page : Byte) (m : BitVec 4) (data : Byte) :
    decode (.bus c page (readWord m 0x8) data) = .ok (.rdTod10 c (page ++ m ++ 0x8#4)) :=
  decode_readWord (r := readRow 0x8 .rdTod10) (by cases c <;> rfl) page m data
theorem decode_rdTodsec (c : Inst) (page : Byte) (m : BitVec 4) (data : Byte) :
    decode (.bus c page (readWord m 0x9) data) = .ok (.rdTodsec c (page ++ m ++ 0x9#4)) :=
  decode_readWord (r := readRow 0x9 .rdTodsec) (by cases c <;> rfl) page m data
theorem decode_rdTodmin (c : Inst) (page : Byte) (m : BitVec 4) (data : Byte) :
    decode (.bus c page (readWord m 0xA) data) = .ok (.rdTodmin c (page ++ m ++ 0xA#4)) :=
  decode_readWord (r := readRow 0xA .rdTodmin) (by cases c <;> rfl) page m data
theorem decode_rdTodhr (c : Inst) (page : Byte) (m : BitVec 4) (data : Byte) :
    decode (.bus c page (readWord m 0xB) data) = .ok (.rdTodhr c (page ++ m ++ 0xB#4)) :=
  decode_readWord (r := readRow 0xB .rdTodhr) (by cases c <;> rfl) page m data
theorem decode_rdSdr (c : Inst) (page : Byte) (m : BitVec 4) (data : Byte) :
    decode (.bus c page (readWord m 0xC) data) = .ok (.rdSdr c (page ++ m ++ 0xC#4)) :=
  decode_readWord (r := readRow 0xC .rdSdr) (by cases c <;> rfl) page m data
theorem decode_rdIcr (c : Inst) (page : Byte) (m : BitVec 4) (data : Byte) :
    decode (.bus c page (readWord m 0xD) data) = .ok (.rdIcr c (page ++ m ++ 0xD#4)) :=
  decode_readWord (r := readRow 0xD .rdIcr) (by cases c <;> rfl) page m data
theorem decode_rdCra (c : Inst) (page : Byte) (m : BitVec 4) (data : Byte) :
    decode (.bus c page (readWord m 0xE) data) = .ok (.rdCra c (page ++ m ++ 0xE#4)) :=
  decode_readWord (r := readRow 0xE .rdCra) (by cases c <;> rfl) page m data
theorem decode_rdCrb (c : Inst) (page : Byte) (m : BitVec 4) (data : Byte) :
    decode (.bus c page (readWord m 0xF) data) = .ok (.rdCrb c (page ++ m ++ 0xF#4)) :=
  decode_readWord (r := readRow 0xF .rdCrb) (by cases c <;> rfl) page m data
theorem decode_wrPra (c : Inst) (page : Byte) (m : BitVec 4) (v : Byte) :
    decode (.bus c page (writeWord m 0x0) v) = .ok (.wrPra c (page ++ m ++ 0x0#4) v) :=
  decode_writeWord (r := writeRow 0x0 .wrPra) (by cases c <;> rfl) page m v
theorem decode_wrPrb (c : Inst) (page : Byte) (m : BitVec 4) (v : Byte) :
    decode (.bus c page (writeWord m 0x1) v) = .ok (.wrPrb c (page ++ m ++ 0x1#4) v) :=
  decode_writeWord (r := writeRow 0x1 .wrPrb) (by cases c <;> rfl) page m v
theorem decode_wrDdra (c : Inst) (page : Byte) (m : BitVec 4) (v : Byte) :
    decode (.bus c page (writeWord m 0x2) v) = .ok (.wrDdra c (page ++ m ++ 0x2#4) v) :=
  decode_writeWord (r := writeRow 0x2 .wrDdra) (by cases c <;> rfl) page m v
theorem decode_wrDdrb (c : Inst) (page : Byte) (m : BitVec 4) (v : Byte) :
    decode (.bus c page (writeWord m 0x3) v) = .ok (.wrDdrb c (page ++ m ++ 0x3#4) v) :=
  decode_writeWord (r := writeRow 0x3 .wrDdrb) (by cases c <;> rfl) page m v
theorem decode_wrTalo (c : Inst) (page : Byte) (m : BitVec 4) (v : Byte) :
    decode (.bus c page (writeWord m 0x4) v) = .ok (.wrTalo c (page ++ m ++ 0x4#4) v) :=
  decode_writeWord (r := writeRow 0x4 .wrTalo) (by cases c <;> rfl) page m v
theorem decode_wrTahi (c : Inst) (page : Byte) (m : BitVec 4) (v : Byte) :
    decode (.bus c page (writeWord m 0x5) v) = .ok (.wrTahi c (page ++ m ++ 0x5#4) v) :=
  decode_writeWord (r := writeRow 0x5 .wrTahi) (by cases c <;> rfl) page m v
theorem decode_wrTblo (c : Inst) (page : Byte) (m : BitVec 4) (v : Byte) :
    decode (.bus c page (writeWord m 0x6) v) = .ok (.wrTblo c (page ++ m ++ 0x6#4) v) :=
  decode_writeWord (r := writeRow 0x6 .wrTblo) (by cases c <;> rfl) page m v
theorem decode_wrTbhi (c : Inst) (page : Byte) (m : BitVec 4) (v : Byte) :
    decode (.bus c page (writeWord m 0x7) v) = .ok (.wrTbhi c (page ++ m ++ 0x7#4) v) :=
  decode_writeWord (r := writeRow 0x7 .wrTbhi) (by cases c <;> rfl) page m v
theorem decode_wrTod10 (c : Inst) (page : Byte) (m : BitVec 4) (v : Byte) :
    decode (.bus c page (writeWord m 0x8) v) = .ok (.wrTod10 c (page ++ m ++ 0x8#4) v) :=
  decode_writeWord (r := writeRow 0x8 .wrTod10) (by cases c <;> rfl) page m v
theorem decode_wrTodsec (c : Inst) (page : Byte) (m : BitVec 4) (v : Byte) :
    decode (.bus c page (writeWord m 0x9) v) = .ok (.wrTodsec c (page ++ m ++ 0x9#4) v) :=
  decode_writeWord (r := writeRow 0x9 .wrTodsec) (by cases c <;> rfl) page m v
theorem decode_wrTodmin (c : Inst) (page : Byte) (m : BitVec 4) (v : Byte) :
    decode (.bus c page (writeWord m 0xA) v) = .ok (.wrTodmin c (page ++ m ++ 0xA#4) v) :=
  decode_writeWord (r := writeRow 0xA .wrTodmin) (by cases c <;> rfl) page m v
theorem decode_wrTodhr (c : Inst) (page : Byte) (m : BitVec 4) (v : Byte) :
    decode (.bus c page (writeWord m 0xB) v) = .ok (.wrTodhr c (page ++ m ++ 0xB#4) v) :=
  decode_writeWord (r := writeRow 0xB .wrTodhr) (by cases c <;> rfl) page m v
theorem decode_wrSdr (c : Inst) (page : Byte) (m : BitVec 4) (v : Byte) :
    decode (.bus c page (writeWord m 0xC) v) = .ok (.wrSdr c (page ++ m ++ 0xC#4) v) :=
  decode_writeWord (r := writeRow 0xC .wrSdr) (by cases c <;> rfl) page m v
theorem decode_wrIcr (c : Inst) (page : Byte) (m : BitVec 4) (v : Byte) :
    decode (.bus c page (writeWord m 0xD) v) = .ok (.wrIcr c (page ++ m ++ 0xD#4) v) :=
  decode_writeWord (r := writeRow 0xD .wrIcr) (by cases c <;> rfl) page m v
theorem decode_wrCra (c : Inst) (page : Byte) (m : BitVec 4) (v : Byte) :
    decode (.bus c page (writeWord m 0xE) v) = .ok (.wrCra c (page ++ m ++ 0xE#4) v) :=
  decode_writeWord (r := writeRow 0xE .wrCra) (by cases c <;> rfl) page m v
theorem decode_wrCrb (c : Inst) (page : Byte) (m : BitVec 4) (v : Byte) :
    decode (.bus c page (writeWord m 0xF) v) = .ok (.wrCrb c (page ++ m ++ 0xF#4) v) :=
  decode_writeWord (r := writeRow 0xF .wrCrb) (by cases c <;> rfl) page m v

/-- Every word is a read word or a write word of its mirror and offset. -/
theorem word_cases (word : OpWord) :
    word = if word.getLsbD 8 then writeWord (word.extractLsb' 4 4) (word.extractLsb' 0 4)
      else readWord (word.extractLsb' 4 4) (word.extractLsb' 0 4) := by
  apply BitVec.eq_of_getLsbD_eq
  intro i hi
  split <;> simp only [readWord, writeWord, BitVec.getLsbD_append, BitVec.getLsbD_extractLsb'] <;>
    interval_cases i <;> simp_all

/-- An address is its page, its mirror and its offset. -/
theorem addr_parts (a : Addr) : a = pageOf a ++ a.extractLsb' 4 4 ++ offsetOf a := by
  apply BitVec.eq_of_getLsbD_eq
  intro i hi
  simp only [pageOf, offsetOf, BitVec.getLsbD_append, BitVec.getLsbD_extractLsb']
  interval_cases i <;> simp

/-- The parts of an address put together from them. -/
theorem parts_addr (page : Byte) (m k : BitVec 4) :
    pageOf (page ++ m ++ k) = page ∧ (page ++ m ++ k : Addr).extractLsb' 4 4 = m ∧ offsetOf (page ++ m ++ k) = k := by
  refine ⟨?_, ?_, ?_⟩ <;> apply BitVec.eq_of_getLsbD_eq <;> intro i hi <;>
    simp only [pageOf, offsetOf, BitVec.getLsbD_append, BitVec.getLsbD_extractLsb'] <;>
    interval_cases i <;> simp

end Sys2Proof.Machine
end

