-- ==== Sys2Proof/Laws/Timer.lean ====
section
/-! SUPPORT. What one chip cycle does to a timer, said once (40_timer.md sections 1 to 4, 44_chip_cycle.md sections 1 and 2): the state
action in terms of `actedTimer` and `firesNow`, the idle step in terms of `appliedTimer`, and the cycle as the two of them and the
delivery. -/

namespace Sys2Proof.Machine

/-! ### Halves of the state action -/

theorem and_not_bit0 (v : Byte) : clearBit v runPos = v &&& 0xFE := rfl

theorem underflows_iff (v : Count) : underflows v = true ↔ v = 0 ∨ v = 1 := by
  have h : v - 1#16 = 0#16 ↔ v = 1#16 := by constructor <;> intro h <;> bv_omega
  simp [underflows, h]

/-- Everything the interrupt-fire action does. -/
theorem fire_eq (src : Byte) (x : TimerView) :
    x.fire src = { timer := { firedTimer x.timer with interruptPendingNextCycle := true }, pending := x.pending ||| src } := by
  unfold TimerView.fire firedTimer
  by_cases h : x.timer.control.getLsbD 3 = true <;>
    simp only [oneShotBit, oneShotPos, h, if_true, if_false, Bool.false_eq_true, and_not_bit0]

/-- Everything the state action does to the pair of a timer and `pending`: the table's timer, whose flag is set when it fired, and the
source bit when it fired. -/
theorem stateAction_eq (cfg : Config) (src : Byte) (ta : Bool) (x : TimerView) (hu : x.timer.underflowedThisCycle = false) :
    x.stateAction cfg src ta =
      { timer :=
          { actedTimer cfg.countStopUnderflow (countInputActive x.timer ta) x.timer with
            interruptPendingNextCycle :=
              x.timer.interruptPendingNextCycle || firesNow cfg.countStopUnderflow (countInputActive x.timer ta) x.timer },
        pending :=
          x.pending ||| if firesNow cfg.countStopUnderflow (countInputActive x.timer ta) x.timer then src else 0 } := by
  obtain ⟨⟨val, lat, con, pc, pv, st, sys, oth, uf, ip⟩, pend⟩ := x
  simp only at hu
  subst hu
  generalize ha : countInputActive _ ta = active
  have ha' : ∀ v st', countInputActive ⟨v, lat, con, pc, pv, st', sys, oth, false, ip⟩ ta = active := fun v st' => ha
  cases st <;> simp only [TimerView.stateAction, actedTimer, firesNow]
  case stop => simp
  case waitCount => simp [TimerView.goTo]
  case loadStop => simp [TimerView.goTo, TimerView.reload]
  case loadCount => simp [TimerView.goTo, TimerView.reload]
  case loadWaitCount =>
    by_cases h : val = 1
    · simp only [h, if_true, fire_eq, TimerView.goTo, beq_self_eq_true, Bool.or_true]
      by_cases ho : con.getLsbD 3 = true <;> simp only [firedTimer, ho, if_true, if_false, Bool.false_eq_true]
    · have hb : (val == 1) = false := by simpa using h
      simp only [h, hb, if_false, Bool.false_eq_true, TimerView.goTo, TimerView.reload, Bool.or_false]
      simp
  case count =>
    simp only [TimerView.countdown, ha']
    cases active
    · simp
    · by_cases h : val = 0 ∨ val = 1
      · have hb : (val == 0 || val == 1) = true := by simpa using h
        simp only [(underflows_iff val).2 h, h, hb, if_true, fire_eq, Bool.true_and, Bool.or_true, Bool.true_eq_false, if_false]
        by_cases ho : con.getLsbD 3 = true <;> simp only [firedTimer, ho, if_true, if_false, Bool.false_eq_true]
      · have hb : (val == 0 || val == 1) = false := by simpa using h
        have hf : underflows val = false := by simpa using fun e => h ((underflows_iff val).1 e)
        simp only [hf, h, hb, if_true, if_false, Bool.and_false, Bool.or_false, Bool.false_eq_true, Bool.true_eq_false]
        simp
  case countStop =>
    cases cfg.countStopUnderflow <;> simp only [TimerView.countStopRow, TimerView.countdown, TimerView.goTo, ha']
    all_goals
      cases active
      · simp
      · by_cases h : val = 0 ∨ val = 1
        · have hb : (val == 0 || val == 1) = true := by simpa using h
          simp only [(underflows_iff val).2 h, h, hb, if_true, fire_eq, Bool.true_and, Bool.true_eq_false, if_false,
            Bool.false_eq_true]
          by_cases ho : con.getLsbD 3 = true <;> simp [firedTimer, ho]
        · have hb : (val == 0 || val == 1) = false := by simpa using h
          have hf : underflows val = false := by simpa using fun e => h ((underflows_iff val).1 e)
          simp only [hf, h, hb, if_true, if_false, Bool.and_false, Bool.false_and, Bool.or_false, Bool.false_eq_true,
            Bool.true_eq_false]
          simp

/-- The default idle table is the function `idleByHand`. -/
theorem idleLookup_default (st : TimerState) (staged : Byte) :
    idleLookup defaultIdleTable st staged =
      idleByHand st (staged.getLsbD 0) (staged.getLsbD 4) (staged.getLsbD 3) := by
  unfold idleLookup
  simp only [defaultIdleTable, List.cons_append, List.nil_append, List.find?_cons, List.find?_nil, idleRowMatches, columnAdmits,
    runBit, runPos, forceLoadBit, forceLoadPos, oneShotBit, oneShotPos]
  generalize staged.getLsbD 0 = r
  generalize staged.getLsbD 4 = l
  generalize staged.getLsbD 3 = o
  cases st <;> cases r <;> cases l <;> cases o <;> rfl

theorem idleStep_invalid {t : Timer} (cfg : Config) (h : t.pendingValid = false) : t.idleStep cfg = t := by
  simp [Timer.idleStep, h]

/-- Everything the idle step does under the default table. -/
theorem idleStep_default {t : Timer} {cfg : Config} (h : t.pendingValid = true) (ht : cfg.idleTable = defaultIdleTable)
    (hk : cfg.controlKeepsForceLoad = false) : t.idleStep cfg = appliedTimer t := by
  simp only [Timer.idleStep, h, if_true, ht, idleLookup_default, appliedControl, hk, appliedTimer, and_not_bit0, Bool.false_eq_true,
    if_false]

/-! ### What the state action and the idle step leave alone -/

theorem firedTimer_frame (t : Timer) :
    (firedTimer t).latch = t.latch ∧ (firedTimer t).pendingValid = t.pendingValid ∧
    (firedTimer t).countsSystemClock = t.countsSystemClock ∧
    (firedTimer t).countsOtherTimerUnderflow = t.countsOtherTimerUnderflow ∧
    (firedTimer t).underflowedThisCycle = t.underflowedThisCycle := by
  unfold firedTimer; split <;> exact ⟨rfl, rfl, rfl, rfl, rfl⟩

theorem actedTimer_frame (opt : CountStopUnderflow) (active : Bool) (t : Timer) :
    (actedTimer opt active t).latch = t.latch ∧ (actedTimer opt active t).pendingValid = t.pendingValid ∧
    (actedTimer opt active t).countsSystemClock = t.countsSystemClock ∧
    (actedTimer opt active t).countsOtherTimerUnderflow = t.countsOtherTimerUnderflow := by
  unfold actedTimer firedTimer
  cases t.state <;> dsimp only <;> (repeat' split) <;> exact ⟨rfl, rfl, rfl, rfl⟩

theorem actedTimer_undelivered (opt : CountStopUnderflow) (active : Bool) (t : Timer) :
    (actedTimer opt active t).interruptPendingNextCycle = false := by
  unfold actedTimer firedTimer
  cases t.state <;> dsimp only <;> (repeat' split) <;> rfl

theorem idleStep_frame (cfg : Config) (t : Timer) :
    (t.idleStep cfg).value = t.value ∧ (t.idleStep cfg).latch = t.latch ∧ (t.idleStep cfg).pendingValid = false ∧
    (t.idleStep cfg).countsSystemClock = t.countsSystemClock ∧
    (t.idleStep cfg).countsOtherTimerUnderflow = t.countsOtherTimerUnderflow ∧
    (t.idleStep cfg).underflowedThisCycle = t.underflowedThisCycle ∧
    (t.idleStep cfg).interruptPendingNextCycle = t.interruptPendingNextCycle := by
  unfold Timer.idleStep
  cases h : t.pendingValid <;> simp [h]

/-! ### The cycle -/

/-- The timer that one step makes, before its flag is delivered. -/
theorem step_eq (cfg : Config) (src : Byte) (ta : Bool) (x : TimerView) :
    x.step cfg src ta =
      { timer := Timer.idleStep cfg
          { actedTimer cfg.countStopUnderflow (countInputActive x.timer ta) { x.timer with underflowedThisCycle := false } with
            interruptPendingNextCycle :=
              x.timer.interruptPendingNextCycle || firesNow cfg.countStopUnderflow (countInputActive x.timer ta) x.timer },
        pending := x.pending ||| if firesNow cfg.countStopUnderflow (countInputActive x.timer ta) x.timer then src else 0 } := by
  unfold TimerView.step
  dsimp only
  rw [stateAction_eq _ _ _ _ rfl]
  rfl

theorem actedTimer_clear (opt : CountStopUnderflow) (active : Bool) (t : Timer) :
    actedTimer opt active { t with underflowedThisCycle := false } = actedTimer opt active t := by
  unfold actedTimer; rfl

/-- Everything the delivery of timer A's flag does. -/
theorem deliverA_eq (c : Inst) (ch : Chip) :
    ch.deliverA c =
      { ch with
        timerA := { ch.timerA with interruptPendingNextCycle := false }
        pending := if ch.timerA.interruptPendingNextCycle then
            if ch.enabled 0x01 then (ch.pending ||| 0x01) ||| 0x80 else ch.pending ||| 0x01 else ch.pending
        intLine := ch.intLine || (ch.timerA.interruptPendingNextCycle && ch.enabled 0x01)
        out := ch.out ++ if ch.timerA.interruptPendingNextCycle && ch.enabled 0x01 then [lineEvent c true] else [] } := by
  obtain ⟨⟨_, _, _, _, _, _, _, _, _, ip⟩, _, _, _, _, _, _, _, _, _, _, _, _, _, _, _⟩ := ch
  cases ip
  · simp [Chip.deliverA]
  · simp only [Chip.deliverA, if_true, raiseAndSignal_eq, srcTimerA, Bool.true_and]
    split <;> rename_i h <;> simp only [Chip.enabled] at h ⊢ <;> simp_all

/-- Everything the delivery of timer B's flag does. -/
theorem deliverB_eq (cfg : Config) (c : Inst) (ch : Chip) :
    ch.deliverB cfg c =
      { ch with
        timerB := { ch.timerB with interruptPendingNextCycle := false }
        pending := if ch.timerB.interruptPendingNextCycle && cfg.timerBDelivery then
            if ch.enabled 0x02 then (ch.pending ||| 0x02) ||| 0x80 else ch.pending ||| 0x02 else ch.pending
        intLine := ch.intLine || (ch.timerB.interruptPendingNextCycle && cfg.timerBDelivery && ch.enabled 0x02)
        out := ch.out ++ if ch.timerB.interruptPendingNextCycle && cfg.timerBDelivery && ch.enabled 0x02
          then [lineEvent c true] else [] } := by
  obtain ⟨_, ⟨_, _, _, _, _, _, _, _, _, ip⟩, _, _, _, _, _, _, _, _, _, _, _, _, _, _⟩ := ch
  cases ip
  · simp [Chip.deliverB]
  · cases hd : cfg.timerBDelivery
    · simp [Chip.deliverB, hd]
    · simp only [Chip.deliverB, hd, if_true, raiseAndSignal_eq, srcTimerB, Bool.true_and]
      split <;> rename_i h <;> simp only [Chip.enabled] at h ⊢ <;> simp_all

theorem idleStep_undelivered (cfg : Config) (t : Timer) (b : Bool) :
    { Timer.idleStep cfg { t with interruptPendingNextCycle := b } with interruptPendingNextCycle := false } =
      Timer.idleStep cfg { t with interruptPendingNextCycle := false } := by
  simp only [Timer.idleStep]; split <;> rfl

theorem actedTimer_delivered (opt : CountStopUnderflow) (active : Bool) (t : Timer) :
    { actedTimer opt active t with interruptPendingNextCycle := false } = actedTimer opt active t := by
  have h := actedTimer_undelivered opt active t
  generalize actedTimer opt active t = x at *
  cases x
  simp_all

theorem countInputActive_false (t : Timer) : countInputActive t false = t.countsSystemClock := by simp [countInputActive]

/-- The two timers after a cycle, their flags delivered. -/
theorem cycle_timers (cfg : Config) (c : Inst) (ch : Chip) :
    let a := TimerView.step cfg srcTimerA false { timer := ch.timerA, pending := ch.pending }
    let b := TimerView.step cfg srcTimerB a.timer.underflowedThisCycle { timer := ch.timerB, pending := a.pending }
    (ch.cycle cfg c).timerA = { a.timer with interruptPendingNextCycle := false } ∧
    (ch.cycle cfg c).timerB = { b.timer with interruptPendingNextCycle := false } := by
  simp only [Chip.cycle, Chip.processIrq, deliverA_eq, deliverB_eq, Chip.update, and_self]

/-- Everything a cycle does to a timer. -/
theorem cycle_timer (cfg : Config) (c : Inst) (ch : Chip) (w : Which) :
    (ch.cycle cfg c).timer w =
      Timer.idleStep cfg
        (actedTimer cfg.countStopUnderflow (inputActive w (ch.timer w) (ch.cycle cfg c)) (ch.timer w)) := by
  cases w
  · simp only [Chip.timer, (cycle_timers cfg c ch).1, step_eq, idleStep_undelivered, actedTimer_delivered, actedTimer_clear,
      countInputActive_false, inputActive]
  · have u : (ch.cycle cfg c).timerA.underflowedThisCycle =
        (TimerView.step cfg srcTimerA false { timer := ch.timerA, pending := ch.pending }).timer.underflowedThisCycle := by
      rw [(cycle_timers cfg c ch).1]
    simp only [Chip.timer, inputActive, u]
    rw [(cycle_timers cfg c ch).2]
    generalize TimerView.step cfg srcTimerA false { timer := ch.timerA, pending := ch.pending } = y
    simp only [step_eq, idleStep_undelivered, actedTimer_delivered, actedTimer_clear, countInputActive]

end Sys2Proof.Machine
end

