-- ==== Sys2Proof/Laws/Exec.lean ====
section
/-! SUPPORT. What an operation does when nothing stands in its way (its instance is live and, for a bus access, the page is the
instance's), and that an operation does this, or is fatal, or is ignored: the whole of `exec` said once. -/

namespace Sys2Proof.Machine

/-- The state after a read that returns `v` and leaves the record of instance `c` as `ch`. -/
def State.reading (s : State) (c : Inst) (v : Byte) (ch : Chip) : State := { s.setChip c ch with readData := some v }

/-- The state after a write of `v` at `addr` whose effect on the record with the shadow event is `f`. -/
def State.written (s : State) (c : Inst) (addr : Addr) (v : Byte) (f : Chip → Chip) : State :=
  s.leaving c (f ((s.chip c).emit (.shadow addr v)))

/-- The state after an operation on a live instance, in its page. -/
def ordinary (s : State) : Instr → State
  | .rdPra1 _ => s.reading .one (readPortA1 s.chip1 s.inst1) s.chip1
  | .rdPra2 _ => s.reading .two (readPortA2 s.chip2 s.serialBusLines) s.chip2
  | .rdPrb1 _ => s.reading .one (readPortB1 s.chip1 s.inst1) s.chip1
  | .rdPrb2 _ => s.reading .two s.chip2.pinsB s.chip2
  | .rdDdra c _ => s.reading c (s.chip c).directionA (s.chip c)
  | .rdDdrb c _ => s.reading c (s.chip c).directionB (s.chip c)
  | .rdTalo c _ => s.reading c (lo8 (s.chip c).timerA.value) (s.chip c)
  | .rdTahi c _ => s.reading c (hi8 (s.chip c).timerA.value) (s.chip c)
  | .rdTblo c _ => s.reading c (lo8 (s.chip c).timerB.value) (s.chip c)
  | .rdTbhi c _ => s.reading c (hi8 (s.chip c).timerB.value) (s.chip c)
  | .rdTod10 c _ => s.reading c (s.chip c).tod.deciseconds { s.chip c with todHalted := false }
  | .rdTodsec c _ => s.reading c (s.chip c).tod.seconds (s.chip c)
  | .rdTodmin c _ => s.reading c (s.chip c).tod.minutes (s.chip c)
  | .rdTodhr c _ => s.reading c (s.chip c).tod.hours { s.chip c with todHalted := true }
  | .rdSdr c _ => s.reading c (s.chip c).sdr (s.chip c)
  | .rdIcr c _ => s.reading c (s.chip c).pending ((s.chip c).acknowledge c)
  | .rdCra c _ => s.reading c (s.chip c).timerA.control (s.chip c)
  | .rdCrb c _ => s.reading c (s.chip c).timerB.control (s.chip c)
  | .wrPra c a v => ((s.mapChip c fun ch => { ch.emit (.shadow a v) with portA := v }).afterPortA c).noData
  | .wrPrb c a v => ((s.mapChip c fun ch => { ch.emit (.shadow a v) with portB := v }).afterPortB c).noData
  | .wrDdra c a v => ((s.mapChip c fun ch => { ch.emit (.shadow a v) with directionA := v }).afterPortA c).noData
  | .wrDdrb c a v => ((s.mapChip c fun ch => { ch.emit (.shadow a v) with directionB := v }).afterPortB c).noData
  | .wrTalo c a v => s.written c a v fun ch => { ch with timerA := ch.timerA.writeLatchLo v }
  | .wrTahi c a v => s.written c a v fun ch => { ch with timerA := ch.timerA.writeLatchHi v }
  | .wrTblo c a v => s.written c a v fun ch => { ch with timerB := ch.timerB.writeLatchLo v }
  | .wrTbhi c a v => s.written c a v fun ch => { ch with timerB := ch.timerB.writeLatchHi v }
  | .wrTod10 c a v => s.written c a v (Chip.todWrite s.cfg.todWriteMasks .deciseconds v)
  | .wrTodsec c a v => s.written c a v (Chip.todWrite s.cfg.todWriteMasks .seconds v)
  | .wrTodmin c a v => s.written c a v (Chip.todWrite s.cfg.todWriteMasks .minutes v)
  | .wrTodhr c a v => s.written c a v (Chip.todWrite s.cfg.todWriteMasks .hours v)
  | .wrSdr c a v => s.written c a v (Chip.writeSdr s.cfg c v)
  | .wrIcr c a v => s.written c a v (Chip.writeMask c v)
  | .wrCra c a v => s.written c a v fun ch => { ch with timerA := ch.timerA.writeControlA v }
  | .wrCrb c a v => s.written c a v fun ch => { ch with timerB := ch.timerB.writeControlB v }
  | .cycle c => s.leaving c ((s.chip c).cycle s.cfg c)
  | .todTick c => s.leaving c ((s.chip c).todTick s.cfg c)
  | .reset c => ((s.mapChip c (Chip.resetPart s.cfg c)).resetInputs c).noData
  | .hostKey r k p => { s with inst1 := s.inst1.setKey r k p, readData := none }
  | .hostJoy n v => { s with inst1 := s.inst1.setJoystick n v, readData := none }
  | .hostSer v => { s with serialBusLines := v, readData := none }

/-- A bus operation's address is in its instance's page; a pin event has none. -/
def pageFits (s : State) (i : Instr) : Prop := ∀ addr, busAddr i = some addr → pageOf addr = s.pageByte (instOf i)

theorem reading_self (s : State) (c : Inst) (v : Byte) : s.reading c v (s.chip c) = { s with readData := some v } := by
  simp [State.reading]

/-! ### The three ways an operation goes -/

/-- Every operation is a bus read, a bus write or a pin event of its instance around what it does ordinarily. -/
theorem exec_form (i : Instr) (s : State) :
    (∃ addr rd, busAddr i = some addr ∧ exec i s = s.busRead (instOf i) addr rd ∧
      ordinary s i = { (rd s).2 with readData := some (rd s).1 }) ∨
    (∃ addr v wr, busAddr i = some addr ∧ exec i s = s.busWrite (instOf i) addr v wr ∧
      ordinary s i = (wr (s.mapChip (instOf i) (Chip.emit (.shadow addr v)))).noData) ∨
    (∃ ev, busAddr i = none ∧ exec i s = s.pinEvent (instOf i) ev ∧ ordinary s i = (ev s).noData) := by
  cases i with
  | rdPra1 a => exact .inl ⟨a, _, rfl, (rfl : execRdPra1 a s = _), reading_self ..⟩
  | rdPra2 a => exact .inl ⟨a, _, rfl, (rfl : execRdPra2 a s = _), reading_self s .two _⟩
  | rdPrb1 a => exact .inl ⟨a, _, rfl, (rfl : execRdPrb1 a s = _), reading_self ..⟩
  | rdPrb2 a => exact .inl ⟨a, _, rfl, (rfl : execRdPrb2 a s = _), reading_self ..⟩
  | rdDdra c a => exact .inl ⟨a, fun s' => ((s'.chip c).directionA, s'), rfl, rfl, reading_self ..⟩
  | rdDdrb c a => exact .inl ⟨a, fun s' => ((s'.chip c).directionB, s'), rfl, rfl, reading_self ..⟩
  | rdTalo c a => exact .inl ⟨a, fun s' => (lo8 (s'.chip c).timerA.value, s'), rfl, rfl, reading_self ..⟩
  | rdTahi c a => exact .inl ⟨a, fun s' => (hi8 (s'.chip c).timerA.value, s'), rfl, rfl, reading_self ..⟩
  | rdTblo c a => exact .inl ⟨a, fun s' => (lo8 (s'.chip c).timerB.value, s'), rfl, rfl, reading_self ..⟩
  | rdTbhi c a => exact .inl ⟨a, fun s' => (hi8 (s'.chip c).timerB.value, s'), rfl, rfl, reading_self ..⟩
  | rdTod10 c a =>
    exact .inl ⟨a, fun s' => ((s'.chip c).tod.deciseconds, s'.mapChip c fun ch => { ch with todHalted := false }), rfl, rfl, rfl⟩
  | rdTodsec c a => exact .inl ⟨a, fun s' => ((s'.chip c).tod.seconds, s'), rfl, rfl, reading_self ..⟩
  | rdTodmin c a => exact .inl ⟨a, fun s' => ((s'.chip c).tod.minutes, s'), rfl, rfl, reading_self ..⟩
  | rdTodhr c a =>
    exact .inl ⟨a, fun s' => ((s'.chip c).tod.hours, s'.mapChip c fun ch => { ch with todHalted := true }), rfl, rfl, rfl⟩
  | rdSdr c a => exact .inl ⟨a, fun s' => ((s'.chip c).sdr, s'), rfl, rfl, reading_self ..⟩
  | rdIcr c a => exact .inl ⟨a, fun s' => ((s'.chip c).pending, s'.mapChip c (Chip.acknowledge c)), rfl, rfl, rfl⟩
  | rdCra c a => exact .inl ⟨a, fun s' => ((s'.chip c).timerA.control, s'), rfl, rfl, reading_self ..⟩
  | rdCrb c a => exact .inl ⟨a, fun s' => ((s'.chip c).timerB.control, s'), rfl, rfl, reading_self ..⟩
  | wrPra c a v =>
    exact .inr (.inl ⟨a, v, fun s' => (s'.mapChip c fun ch => { ch with portA := v }).afterPortA c, rfl, rfl,
      by simp [ordinary, instOf]⟩)
  | wrPrb c a v =>
    exact .inr (.inl ⟨a, v, fun s' => (s'.mapChip c fun ch => { ch with portB := v }).afterPortB c, rfl, rfl,
      by simp [ordinary, instOf]⟩)
  | wrDdra c a v =>
    exact .inr (.inl ⟨a, v, fun s' => (s'.mapChip c fun ch => { ch with directionA := v }).afterPortA c, rfl, rfl,
      by simp [ordinary, instOf]⟩)
  | wrDdrb c a v =>
    exact .inr (.inl ⟨a, v, fun s' => (s'.mapChip c fun ch => { ch with directionB := v }).afterPortB c, rfl, rfl,
      by simp [ordinary, instOf]⟩)
  | wrTalo c a v =>
    exact .inr (.inl ⟨a, v, fun s' => s'.mapChip c (fun ch => { ch with timerA := ch.timerA.writeLatchLo v }), rfl, rfl,
      by simp [ordinary, instOf, State.written, mapChip_eq, noData_setChip]⟩)
  | wrTahi c a v =>
    exact .inr (.inl ⟨a, v, fun s' => s'.mapChip c (fun ch => { ch with timerA := ch.timerA.writeLatchHi v }), rfl, rfl,
      by simp [ordinary, instOf, State.written, mapChip_eq, noData_setChip]⟩)
  | wrTblo c a v =>
    exact .inr (.inl ⟨a, v, fun s' => s'.mapChip c (fun ch => { ch with timerB := ch.timerB.writeLatchLo v }), rfl, rfl,
      by simp [ordinary, instOf, State.written, mapChip_eq, noData_setChip]⟩)
  | wrTbhi c a v =>
    exact .inr (.inl ⟨a, v, fun s' => s'.mapChip c (fun ch => { ch with timerB := ch.timerB.writeLatchHi v }), rfl, rfl,
      by simp [ordinary, instOf, State.written, mapChip_eq, noData_setChip]⟩)
  | wrTod10 c a v =>
    exact .inr (.inl ⟨a, v, fun s' => s'.mapChip c (Chip.todWrite s.cfg.todWriteMasks .deciseconds v), rfl, rfl,
      by simp [ordinary, instOf, State.written, mapChip_eq, noData_setChip]⟩)
  | wrTodsec c a v =>
    exact .inr (.inl ⟨a, v, fun s' => s'.mapChip c (Chip.todWrite s.cfg.todWriteMasks .seconds v), rfl, rfl,
      by simp [ordinary, instOf, State.written, mapChip_eq, noData_setChip]⟩)
  | wrTodmin c a v =>
    exact .inr (.inl ⟨a, v, fun s' => s'.mapChip c (Chip.todWrite s.cfg.todWriteMasks .minutes v), rfl, rfl,
      by simp [ordinary, instOf, State.written, mapChip_eq, noData_setChip]⟩)
  | wrTodhr c a v =>
    exact .inr (.inl ⟨a, v, fun s' => s'.mapChip c (Chip.todWrite s.cfg.todWriteMasks .hours v), rfl, rfl,
      by simp [ordinary, instOf, State.written, mapChip_eq, noData_setChip]⟩)
  | wrSdr c a v =>
    exact .inr (.inl ⟨a, v, fun s' => s'.mapChip c (Chip.writeSdr s.cfg c v), rfl, rfl,
      by simp [ordinary, instOf, State.written, mapChip_eq, noData_setChip]⟩)
  | wrIcr c a v =>
    exact .inr (.inl ⟨a, v, fun s' => s'.mapChip c (Chip.writeMask c v), rfl, rfl,
      by simp [ordinary, instOf, State.written, mapChip_eq, noData_setChip]⟩)
  | wrCra c a v =>
    exact .inr (.inl ⟨a, v, fun s' => s'.mapChip c (fun ch => { ch with timerA := ch.timerA.writeControlA v }), rfl, rfl,
      by simp [ordinary, instOf, State.written, mapChip_eq, noData_setChip]⟩)
  | wrCrb c a v =>
    exact .inr (.inl ⟨a, v, fun s' => s'.mapChip c (fun ch => { ch with timerB := ch.timerB.writeControlB v }), rfl, rfl,
      by simp [ordinary, instOf, State.written, mapChip_eq, noData_setChip]⟩)
  | cycle c => exact .inr (.inr ⟨fun s' => s'.mapChip c (Chip.cycle s'.cfg c), rfl, rfl, rfl⟩)
  | todTick c => exact .inr (.inr ⟨fun s' => s'.mapChip c (Chip.todTick s'.cfg c), rfl, rfl, rfl⟩)
  | reset c => exact .inr (.inr ⟨fun s' => (s'.mapChip c (Chip.resetPart s'.cfg c)).resetInputs c, rfl, rfl, rfl⟩)
  | hostKey r k p => exact .inr (.inr ⟨fun s' => { s' with inst1 := s'.inst1.setKey r k p }, rfl, rfl, rfl⟩)
  | hostJoy n v => exact .inr (.inr ⟨fun s' => { s' with inst1 := s'.inst1.setJoystick n v }, rfl, rfl, rfl⟩)
  | hostSer v => exact .inr (.inr ⟨fun s' => { s' with serialBusLines := v }, rfl, rfl, rfl⟩)

theorem exec_stuck (i : Instr) (s : State) (h : ¬ s.live (instOf i)) : exec i s = .next s.noData := by
  obtain ⟨addr, rd, -, e, -⟩ | ⟨addr, v, wr, -, e, -⟩ | ⟨ev, -, e, -⟩ := exec_form i s
  · rw [e, busRead_stuck _ _ h]
  · rw [e, busWrite_stuck _ _ _ h]
  · rw [e, pinEvent_stuck _ h]

theorem exec_outOfPage {i : Instr} {s : State} {addr : Addr} (h : s.live (instOf i)) (ha : busAddr i = some addr)
    (hp : pageOf addr ≠ s.pageByte (instOf i)) : exec i s = .next (s.raiseFatal (instOf i) addr) := by
  obtain ⟨a, rd, hb, e, -⟩ | ⟨a, v, wr, hb, e, -⟩ | ⟨ev, hb, e, -⟩ := exec_form i s
  · obtain rfl : a = addr := by simpa [ha] using hb.symm
    rw [e, busRead_outOfPage _ h hp]
  · obtain rfl : a = addr := by simpa [ha] using hb.symm
    rw [e, busWrite_outOfPage _ _ h hp]
  · simp [ha] at hb

theorem exec_ordinary {i : Instr} {s : State} (h : s.live (instOf i)) (hp : pageFits s i) :
    exec i s = .next (ordinary s i) := by
  obtain ⟨a, rd, hb, e, ho⟩ | ⟨a, v, wr, hb, e, ho⟩ | ⟨ev, hb, e, ho⟩ := exec_form i s
  · rw [e, ho, busRead_inPage _ h (hp a hb)]
  · rw [e, ho, busWrite_inPage _ _ h (hp a hb)]
  · rw [e, ho, pinEvent_live _ h]

/-- Everything an operation can do. -/
theorem exec_cases {i : Instr} {s t : State} (h : exec i s = .next t) :
    (¬ s.live (instOf i) ∧ t = s.noData) ∨
    (s.live (instOf i) ∧ pageFits s i ∧ t = ordinary s i) ∨
    (s.live (instOf i) ∧
      ∃ addr, busAddr i = some addr ∧ pageOf addr ≠ s.pageByte (instOf i) ∧ t = s.raiseFatal (instOf i) addr) := by
  by_cases hl : s.live (instOf i)
  · by_cases hp : pageFits s i
    · rw [exec_ordinary hl hp] at h
      exact .inr (.inl ⟨hl, hp, by injection h with h; exact h.symm⟩)
    · simp only [pageFits, not_forall] at hp
      obtain ⟨addr, ha, hn⟩ := hp
      rw [exec_outOfPage hl ha hn] at h
      exact .inr (.inr ⟨hl, addr, ha, hn, by injection h with h; exact h.symm⟩)
  · rw [exec_stuck i s hl] at h
    exact .inl ⟨hl, by injection h with h; exact h.symm⟩

end Sys2Proof.Machine
end

