-- ==== Sys2Proof/Laws/Fields.lean ====
section
/-! SUPPORT. The conditional updates as one record each, with the condition inside the fields, so that a field of the result is read off
by `rfl`. -/

namespace Sys2Proof.Machine

theorem raiseAndSignal_fields (c : Inst) (m : Byte) (ch : Chip) :
    ch.raiseAndSignal c m =
      { ch with
        pending := if ch.enabled m then (ch.pending ||| m) ||| 0x80 else ch.pending ||| m
        intLine := ch.intLine || ch.enabled m
        out := ch.out ++ if ch.enabled m then [lineEvent c true] else [] } := by
  rw [raiseAndSignal_eq]
  cases h : ch.enabled m <;> simp

theorem writeMask_fields (c : Inst) (v : Byte) (ch : Chip) :
    ch.writeMask c v =
      { ch with
        mask := maskAfter ch.mask v
        pending := if ch.pending &&& maskAfter ch.mask v &&& 0x1F = 0 then ch.pending else ch.pending ||| 0x80
        intLine := ch.intLine || !decide (ch.pending &&& maskAfter ch.mask v &&& 0x1F = 0)
        out := ch.out ++ if ch.pending &&& maskAfter ch.mask v &&& 0x1F = 0 then [] else [lineEvent c true] } := by
  rw [writeMask_eq]
  by_cases h : ch.pending &&& maskAfter ch.mask v &&& 0x1F = 0 <;> simp only [h, if_true, if_false] <;> simp

theorem writeSdr_fields (cfg : Config) (c : Inst) (v : Byte) (ch : Chip) :
    ch.writeSdr cfg c v =
      { ch with
        sdr := v
        pending := if cfg.sdrWriteRaises then
            if ch.enabled 0x08 then (ch.pending ||| 0x08) ||| 0x80 else ch.pending ||| 0x08 else ch.pending
        intLine := ch.intLine || (cfg.sdrWriteRaises && ch.enabled 0x08)
        out := ch.out ++ if cfg.sdrWriteRaises && ch.enabled 0x08 then [lineEvent c true] else [] } := by
  cases h : cfg.sdrWriteRaises
  · simp [Chip.writeSdr, h]
  · simp only [Chip.writeSdr, h, if_true, raiseAndSignal_fields, Bool.true_and]
    rfl

theorem todWrite_fields (masks : TodMasks) (f : TodField) (v : Byte) (ch : Chip) :
    ch.todWrite masks f v =
      { ch with
        alarm := if alarmSelect ch.timerB.control then ch.alarm.put f (v &&& todWriteMask masks f) else ch.alarm
        tod := if alarmSelect ch.timerB.control then ch.tod else ch.tod.put f (v &&& todWriteMask masks f) } := by
  unfold Chip.todWrite
  split <;> rfl

/-- Whether a tick advances the clock (42_tod.md R156). -/
def ticksOver (ch : Chip) : Bool := !ch.todHalted && tickedDivisor ch.todDivisor == 0

/-- Whether a tick finds the alarm (42_tod.md R167). -/
def alarmMatches (cfg : Config) (ch : Chip) : Bool :=
  ticksOver ch && decide (ch.tod.advance cfg.todHourStyle = ch.alarm)

theorem todTick_fields (cfg : Config) (c : Inst) (ch : Chip) :
    ch.todTick cfg c =
      { ch with
        todDivisor :=
          if ch.todHalted then ch.todDivisor
          else if tickedDivisor ch.todDivisor = 0 then todReload cfg ch else tickedDivisor ch.todDivisor
        tod := if ticksOver ch then ch.tod.advance cfg.todHourStyle else ch.tod
        pending := if alarmMatches cfg ch then
            if ch.enabled 0x04 then (ch.pending ||| 0x04) ||| 0x80 else ch.pending ||| 0x04 else ch.pending
        intLine := ch.intLine || (alarmMatches cfg ch && ch.enabled 0x04)
        out := ch.out ++ if alarmMatches cfg ch && ch.enabled 0x04 then [lineEvent c true] else [] } := by
  unfold Chip.todTick alarmMatches ticksOver
  cases hh : ch.todHalted
  · by_cases hd : tickedDivisor ch.todDivisor = 0
    · by_cases ha : ch.tod.advance cfg.todHourStyle = ch.alarm
      · simp only [hd, if_true, if_false, Bool.false_eq_true, Chip.alarmCompare, ha, raiseAndSignal_fields]
        simp only [Chip.enabled, srcAlarm]
        simp
      · simp only [hd, if_true, if_false, Bool.false_eq_true, Chip.alarmCompare, ha]
        simp
    · have hb : (tickedDivisor ch.todDivisor == 0) = false := by simpa using hd
      simp only [hd, hb, if_false, Bool.false_eq_true, Bool.and_false, Bool.false_and, Bool.or_false, List.append_nil]
  · simp only [if_true, Bool.not_true, Bool.false_and, Bool.false_eq_true, if_false, Bool.or_false, List.append_nil]
    rw [← hh]

theorem lightPenCheck_fields (s : State) :
    s.lightPenCheck =
      { s with
        chip1 := { s.chip1 with
          out := s.chip1.out ++ if lightPenTriggers s.cfg.lightPenEdge s.inst1.previousLightPenLine (s.chip1.pinsB &&& 0x10)
            then [.lightPen] else [] }
        inst1 := { s.inst1 with previousLightPenLine := s.chip1.pinsB &&& 0x10 } } := by
  unfold State.lightPenCheck
  simp only [lightPenLine]
  by_cases h : lightPenTriggers s.cfg.lightPenEdge s.inst1.previousLightPenLine (s.chip1.pinsB &&& 0x10) = true
  · simp only [h, if_true, mapChip_eq, Chip.emit, chip_one, setChip_one]
  · simp only [h, if_false, List.append_nil, Bool.false_eq_true]

theorem bankNotify_fields (s : State) :
    s.bankNotify = { s with chip2 := { s.chip2 with out := s.chip2.out ++ [.bank s.chip2.bankSelect] } } := rfl

theorem writeLatchHi_fields (v : Byte) (t : Timer) :
    t.writeLatchHi v =
      { t with latch := withHi8 t.latch v, value := if runBit t.control then t.value else withHi8 t.latch v } := by
  unfold Timer.writeLatchHi
  split <;> rfl

/-- `Reset(c)` on a chip's record: the reset record, the line released, the trace and `fatal` kept (70_reset_and_hazards.md R270). -/
theorem resetPart_fields (cfg : Config) (c : Inst) (ch : Chip) :
    ch.resetPart cfg c =
      { chipAtReset cfg.resetRecord with out := ch.out ++ [lineEvent c false], fatal := ch.fatal } := rfl

end Sys2Proof.Machine
end

