-- ==== Sys2Proof/Laws/PerInstr.lean ====
section
/-! SUPPORT. The family OpcodeRow, one lemma per operation: the operation word of a well-formed bus operation is the one its row of
spec/opcode_table.json matches (mask 0x10F, 30_encoding.md R81, R84) on its own instance, with `rw` 1 exactly for a write; a pin event
carries no address and is well-formed (R95). -/

namespace Sys2Proof.Laws

open Sys2Proof.Machine

/-- The `match` column of an operation's row of spec/opcode_table.json; none for the rows that have none. -/
def OpcodeRow.bits : Instr → Option OpWord
  | .rdPra1 _ => some 0x000
  | .rdPra2 _ => some 0x000
  | .rdPrb1 _ => some 0x001
  | .rdPrb2 _ => some 0x001
  | .rdDdra _ _ => some 0x002
  | .rdDdrb _ _ => some 0x003
  | .rdTalo _ _ => some 0x004
  | .rdTahi _ _ => some 0x005
  | .rdTblo _ _ => some 0x006
  | .rdTbhi _ _ => some 0x007
  | .rdTod10 _ _ => some 0x008
  | .rdTodsec _ _ => some 0x009
  | .rdTodmin _ _ => some 0x00A
  | .rdTodhr _ _ => some 0x00B
  | .rdSdr _ _ => some 0x00C
  | .rdIcr _ _ => some 0x00D
  | .rdCra _ _ => some 0x00E
  | .rdCrb _ _ => some 0x00F
  | .wrPra _ _ _ => some 0x100
  | .wrPrb _ _ _ => some 0x101
  | .wrDdra _ _ _ => some 0x102
  | .wrDdrb _ _ _ => some 0x103
  | .wrTalo _ _ _ => some 0x104
  | .wrTahi _ _ _ => some 0x105
  | .wrTblo _ _ _ => some 0x106
  | .wrTbhi _ _ _ => some 0x107
  | .wrTod10 _ _ _ => some 0x108
  | .wrTodsec _ _ _ => some 0x109
  | .wrTodmin _ _ _ => some 0x10A
  | .wrTodhr _ _ _ => some 0x10B
  | .wrSdr _ _ _ => some 0x10C
  | .wrIcr _ _ _ => some 0x10D
  | .wrCra _ _ _ => some 0x10E
  | .wrCrb _ _ _ => some 0x10F
  | .cycle _ => none
  | .todTick _ => none
  | .reset _ => none
  | .hostKey _ _ _ => none
  | .hostJoy _ _ => none
  | .hostSer _ => none

/-- What the row says of the operation's encoding. -/
def OpcodeRow.Statement (i : Instr) : Prop :=
  match OpcodeRow.bits i with
  | some bits =>
    i.wellFormed = true →
      ∃ (page : Byte) (word : OpWord) (data : Byte),
        encode i = .bus (instOf i) page word data ∧ word &&& 0x10F = bits ∧ word.getLsbD 8 = (writeOf i).isSome
  | none => i.wellFormed = true ∧ busAddr i = none

theorem readRow_statement {c : Inst} {a : Addr} {k : BitVec 4} (h : (offsetOf a == k) = true) :
    ∃ (page : Byte) (word : OpWord) (data : Byte),
      readRequest c a = .bus c page word data ∧ word &&& 0x10F = 0#5 ++ k ∧ word.getLsbD 8 = false := by
  obtain rfl : offsetOf a = k := by simpa using h
  refine ⟨_, _, _, readRequest_eq c a, ?_, ?_⟩
  · rw [readWord_masked]
    generalize offsetOf a = k
    revert k
    decide
  · exact readWord_rw _ _

theorem writeRow_statement {c : Inst} {a : Addr} {v : Byte} {k : BitVec 4} (h : (offsetOf a == k) = true) :
    ∃ (page : Byte) (word : OpWord) (data : Byte),
      writeRequest c a v = .bus c page word data ∧ word &&& 0x10F = 0x10#5 ++ k ∧ word.getLsbD 8 = true := by
  obtain rfl : offsetOf a = k := by simpa using h
  refine ⟨_, _, _, writeRequest_eq c a v, ?_, ?_⟩
  · rw [writeWord_masked]
    generalize offsetOf a = k
    revert k
    decide
  · exact writeWord_rw _ _

/-! ### One lemma per operation -/

theorem OpcodeRow.rdPra1 (addr : Addr) : OpcodeRow.Statement (.rdPra1 addr) := fun h => readRow_statement h
theorem OpcodeRow.rdPra2 (addr : Addr) : OpcodeRow.Statement (.rdPra2 addr) := fun h => readRow_statement h
theorem OpcodeRow.rdPrb1 (addr : Addr) : OpcodeRow.Statement (.rdPrb1 addr) := fun h => readRow_statement h
theorem OpcodeRow.rdPrb2 (addr : Addr) : OpcodeRow.Statement (.rdPrb2 addr) := fun h => readRow_statement h
theorem OpcodeRow.rdDdra (c : Inst) (addr : Addr) : OpcodeRow.Statement (.rdDdra c addr) := fun h => readRow_statement h
theorem OpcodeRow.rdDdrb (c : Inst) (addr : Addr) : OpcodeRow.Statement (.rdDdrb c addr) := fun h => readRow_statement h
theorem OpcodeRow.rdTalo (c : Inst) (addr : Addr) : OpcodeRow.Statement (.rdTalo c addr) := fun h => readRow_statement h
theorem OpcodeRow.rdTahi (c : Inst) (addr : Addr) : OpcodeRow.Statement (.rdTahi c addr) := fun h => readRow_statement h
theorem OpcodeRow.rdTblo (c : Inst) (addr : Addr) : OpcodeRow.Statement (.rdTblo c addr) := fun h => readRow_statement h
theorem OpcodeRow.rdTbhi (c : Inst) (addr : Addr) : OpcodeRow.Statement (.rdTbhi c addr) := fun h => readRow_statement h
theorem OpcodeRow.rdTod10 (c : Inst) (addr : Addr) : OpcodeRow.Statement (.rdTod10 c addr) := fun h => readRow_statement h
theorem OpcodeRow.rdTodsec (c : Inst) (addr : Addr) : OpcodeRow.Statement (.rdTodsec c addr) := fun h => readRow_statement h
theorem OpcodeRow.rdTodmin (c : Inst) (addr : Addr) : OpcodeRow.Statement (.rdTodmin c addr) := fun h => readRow_statement h
theorem OpcodeRow.rdTodhr (c : Inst) (addr : Addr) : OpcodeRow.Statement (.rdTodhr c addr) := fun h => readRow_statement h
theorem OpcodeRow.rdSdr (c : Inst) (addr : Addr) : OpcodeRow.Statement (.rdSdr c addr) := fun h => readRow_statement h
theorem OpcodeRow.rdIcr (c : Inst) (addr : Addr) : OpcodeRow.Statement (.rdIcr c addr) := fun h => readRow_statement h
theorem OpcodeRow.rdCra (c : Inst) (addr : Addr) : OpcodeRow.Statement (.rdCra c addr) := fun h => readRow_statement h
theorem OpcodeRow.rdCrb (c : Inst) (addr : Addr) : OpcodeRow.Statement (.rdCrb c addr) := fun h => readRow_statement h
theorem OpcodeRow.wrPra (c : Inst) (addr : Addr) (v : Byte) : OpcodeRow.Statement (.wrPra c addr v) := fun h => writeRow_statement h
theorem OpcodeRow.wrPrb (c : Inst) (addr : Addr) (v : Byte) : OpcodeRow.Statement (.wrPrb c addr v) := fun h => writeRow_statement h
theorem OpcodeRow.wrDdra (c : Inst) (addr : Addr) (v : Byte) : OpcodeRow.Statement (.wrDdra c addr v) := fun h => writeRow_statement h
theorem OpcodeRow.wrDdrb (c : Inst) (addr : Addr) (v : Byte) : OpcodeRow.Statement (.wrDdrb c addr v) := fun h => writeRow_statement h
theorem OpcodeRow.wrTalo (c : Inst) (addr : Addr) (v : Byte) : OpcodeRow.Statement (.wrTalo c addr v) := fun h => writeRow_statement h
theorem OpcodeRow.wrTahi (c : Inst) (addr : Addr) (v : Byte) : OpcodeRow.Statement (.wrTahi c addr v) := fun h => writeRow_statement h
theorem OpcodeRow.wrTblo (c : Inst) (addr : Addr) (v : Byte) : OpcodeRow.Statement (.wrTblo c addr v) := fun h => writeRow_statement h
theorem OpcodeRow.wrTbhi (c : Inst) (addr : Addr) (v : Byte) : OpcodeRow.Statement (.wrTbhi c addr v) := fun h => writeRow_statement h
theorem OpcodeRow.wrTod10 (c : Inst) (addr : Addr) (v : Byte) : OpcodeRow.Statement (.wrTod10 c addr v) := fun h => writeRow_statement h
theorem OpcodeRow.wrTodsec (c : Inst) (addr : Addr) (v : Byte) : OpcodeRow.Statement (.wrTodsec c addr v) := fun h => writeRow_statement h
theorem OpcodeRow.wrTodmin (c : Inst) (addr : Addr) (v : Byte) : OpcodeRow.Statement (.wrTodmin c addr v) := fun h => writeRow_statement h
theorem OpcodeRow.wrTodhr (c : Inst) (addr : Addr) (v : Byte) : OpcodeRow.Statement (.wrTodhr c addr v) := fun h => writeRow_statement h
theorem OpcodeRow.wrSdr (c : Inst) (addr : Addr) (v : Byte) : OpcodeRow.Statement (.wrSdr c addr v) := fun h => writeRow_statement h
theorem OpcodeRow.wrIcr (c : Inst) (addr : Addr) (v : Byte) : OpcodeRow.Statement (.wrIcr c addr v) := fun h => writeRow_statement h
theorem OpcodeRow.wrCra (c : Inst) (addr : Addr) (v : Byte) : OpcodeRow.Statement (.wrCra c addr v) := fun h => writeRow_statement h
theorem OpcodeRow.wrCrb (c : Inst) (addr : Addr) (v : Byte) : OpcodeRow.Statement (.wrCrb c addr v) := fun h => writeRow_statement h
theorem OpcodeRow.cycle (c : Inst) : OpcodeRow.Statement (.cycle c) := ⟨rfl, rfl⟩
theorem OpcodeRow.todTick (c : Inst) : OpcodeRow.Statement (.todTick c) := ⟨rfl, rfl⟩
theorem OpcodeRow.reset (c : Inst) : OpcodeRow.Statement (.reset c) := ⟨rfl, rfl⟩
theorem OpcodeRow.hostKey (row column : Fin 8) (pressed : Bool) : OpcodeRow.Statement (.hostKey row column pressed) := ⟨rfl, rfl⟩
theorem OpcodeRow.hostJoy (n : Joystick) (v : Byte) : OpcodeRow.Statement (.hostJoy n v) := ⟨rfl, rfl⟩
theorem OpcodeRow.hostSer (v : Byte) : OpcodeRow.Statement (.hostSer v) := ⟨rfl, rfl⟩

end Sys2Proof.Laws
end

