-- ==== Sys2Proof/Laws/Ports.lean ====
section
/-! SUPPORT. Port pins, the keyboard reduction and the key tables bit by bit (43_register_file.md R184 to R186, R213). -/

namespace Sys2Proof.Machine

/-- A pin is high when it is an input, or its latch is 1 (43_register_file.md R184). -/
theorem pin_bit (port dir : Byte) (p : Fin 8) :
    (port ||| ~~~dir).getLsbD p.val = true ↔ (dir.getLsbD p.val = true → port.getLsbD p.val = true) := by
  have hp : p.val < 8 := p.2
  simp only [BitVec.getLsbD_or, BitVec.getLsbD_not]
  cases port.getLsbD p.val <;> cases dir.getLsbD p.val <;> simp [hp]

theorem scan_fold (tst : Byte) (table : Vector Byte 8) (p : Nat) (lines : List (Fin 8)) (ret : Byte) :
    (lines.foldl (fun r i => if tst.getLsbD i.val then r else r &&& table[i]) ret).getLsbD p = true ↔
      ret.getLsbD p = true ∧ ∀ q ∈ lines, tst.getLsbD q.val = true ∨ table[q].getLsbD p = true := by
  induction lines generalizing ret with
  | nil => simp
  | cons a lines ih =>
    rw [List.foldl_cons, ih]
    by_cases h : tst.getLsbD a.val = true
    · simp only [h, if_true, List.forall_mem_cons, true_or, true_and]
    · simp only [h, if_false, Bool.false_eq_true, List.forall_mem_cons, false_or, BitVec.getLsbD_and, Bool.and_eq_true]
      tauto

/-- A bit of the reduction: set in the byte ANDed into, and no low line's entry clears it. -/
theorem scanReduce_bit (tst : Byte) (table : Vector Byte 8) (ret : Byte) (p : Nat) :
    (scanReduce tst table ret).getLsbD p = true ↔
      ret.getLsbD p = true ∧ ∀ q : Fin 8, tst.getLsbD q.val = true ∨ table[q].getLsbD p = true := by
  have all : ∀ q : Fin 8, q ∈ ([0, 1, 2, 3, 4, 5, 6, 7] : List (Fin 8)) := by decide
  rw [scanReduce, scan_fold]
  exact and_congr_right fun _ => ⟨fun h q => h q (all q), fun h q _ => h q⟩

/-- `x[i] <- b` bit by bit (00_scope.md R10). -/
theorem putBit_bit (v : Byte) (i k : Fin 8) (b : Bool) :
    (putBit v i b).getLsbD k.val = if k = i then b else v.getLsbD k.val := by
  have one : ∀ i k : Fin 8, (1#8 <<< i.val).getLsbD k.val = decide (k = i) := by decide
  have hk : k.val < 8 := k.2
  unfold putBit clearBit
  cases b
  · simp only [Bool.false_eq_true, if_false, BitVec.getLsbD_and, BitVec.getLsbD_not, one, hk]
    by_cases h : k = i <;> simp [h]
  · simp only [if_true, BitVec.getLsbD_or, one]
    by_cases h : k = i <;> simp [h]

/-- Everything `HostSetKey` does to the two tables (43_register_file.md R213). -/
theorem setKey_bits (x : Instance1) (row column : Fin 8) (pressed : Bool) (r k : Fin 8) :
    (x.setKey row column pressed).keyMatrix[r].getLsbD k.val =
      (if r = row ∧ k = column then !pressed else x.keyMatrix[r].getLsbD k.val) ∧
    (x.setKey row column pressed).reverseKeyMatrix[k].getLsbD r.val =
      (if r = row ∧ k = column then !pressed else x.reverseKeyMatrix[k].getLsbD r.val) := by
  constructor
  · by_cases h : r = row
    · subst h
      simp [Instance1.setKey, -BitVec.getLsbD_eq_getElem, putBit_bit]
    · have e : (x.setKey row column pressed).keyMatrix[r] = x.keyMatrix[r] := by
        simp only [Instance1.setKey, Fin.getElem_fin]
        exact Vector.getElem_set_ne _ _ fun e => h (Fin.ext e.symm)
      simp [e, h]
  · by_cases h : k = column
    · subst h
      simp [Instance1.setKey, -BitVec.getLsbD_eq_getElem, putBit_bit]
    · have e : (x.setKey row column pressed).reverseKeyMatrix[k] = x.reverseKeyMatrix[k] := by
        simp only [Instance1.setKey, Fin.getElem_fin]
        exact Vector.getElem_set_ne _ _ fun e => h (Fin.ext e.symm)
      simp [e, h]

end Sys2Proof.Machine
end

