-- ==== Sys2Proof/Laws/Tod.lean ====
section
/-! SUPPORT. The BCD advance of the clock in numbers (42_tod.md section 2), and what an advancing tick leaves in the clock. -/

namespace Sys2Proof.Machine

/-! ### Digits -/

@[simp] theorem unitsDigit_eq (v : Byte) : unitsDigit v = v.toNat % 16 := by
  simp [unitsDigit, BitVec.extractLsb'_toNat]

@[simp] theorem tensDigit_eq (v : Byte) : tensDigit v = v.toNat / 16 % 8 := by
  simp [tensDigit, BitVec.extractLsb'_toNat, Nat.shiftRight_eq_div_pow]

@[simp] theorem hourTens_eq (v : Byte) : hourTens v = v.toNat / 16 % 2 := by
  simp [hourTens, BitVec.extractLsb'_toNat, Nat.shiftRight_eq_div_pow]

/-! ### One step of each field -/

theorem nextDeciseconds_eq (v : Byte) :
    nextDeciseconds v = if 9 ≤ v.toNat % 16 then (0x00, true) else (BitVec.ofNat 8 (v.toNat % 16 + 1), false) := by
  unfold nextDeciseconds
  rw [unitsDigit_eq]
  by_cases h : 9 ≤ v.toNat % 16
  · rw [if_neg (by omega), if_pos h]
  · rw [if_pos (by omega), if_neg h]

theorem digitCarry_nine {d : Nat} (h : 9 ≤ d) : digitCarry d = (0, 1) := by
  unfold digitCarry
  rw [if_pos (by omega)]

theorem digitCarry_below {d : Nat} (h : ¬ 9 ≤ d) : digitCarry d = (d + 1, 0) := by
  unfold digitCarry
  rw [if_neg (by omega)]

theorem nextSixty_eq (v : Byte) :
    nextSixty v = if 0x60 ≤ sixtyPlusOne v then (0x00, true) else (BitVec.ofNat 8 (sixtyPlusOne v), false) := by
  unfold nextSixty sixtyPlusOne digitsPlusOne
  rw [unitsDigit_eq, tensDigit_eq]
  by_cases h : 9 ≤ v.toNat % 16
  · rw [digitCarry_nine h, if_pos h]
    by_cases k : v.toNat / 16 % 8 + 1 ≤ 5
    · exact (if_pos k).trans (if_neg (by omega)).symm
    · exact (if_neg k).trans (if_pos (by omega)).symm
  · rw [digitCarry_below h, if_neg h]
    by_cases k : v.toNat / 16 % 8 + 0 ≤ 5
    · exact (if_pos k).trans (if_neg (by omega)).symm
    · exact (if_neg k).trans (if_pos (by omega)).symm

theorem hourCount_eq (v : Byte) : hourCount v = hourPlusOne v := by
  unfold hourCount hourPlusOne digitsPlusOne
  rw [unitsDigit_eq, hourTens_eq]
  by_cases h : 9 ≤ v.toNat % 16
  · rw [digitCarry_nine h, if_pos h]; rfl
  · rw [digitCarry_below h, if_neg h]; rfl

theorem nextHourZero_eq (v : Byte) :
    nextHourZero v =
      if 0x11 < hourPlusOne v then withPmFlag (!pmFlag v) 0x00 else withPmFlag (pmFlag v) (hourPlusOne v) := by
  unfold nextHourZero
  rw [hourCount_eq]

/-! ### The tick -/

/-- A running clock whose divisor is 0 or 1 advances at a tick. -/
theorem ticksOver_of {ch : Chip} (hh : ch.todHalted = false) (hd : ch.todDivisor = 0 ∨ ch.todDivisor = 1) :
    ticksOver ch = true := by
  simp only [ticksOver, hh, Bool.not_false, Bool.true_and, beq_iff_eq]
  rcases hd with hd | hd <;> rw [hd] <;> rfl

/-- The clock after such a tick. -/
theorem todTick_tod {cfg : Config} {c : Inst} {ch : Chip} (h : ticksOver ch = true) :
    (ch.todTick cfg c).tod = ch.tod.advance cfg.todHourStyle := by
  rw [todTick_fields]
  simp only [h, if_true]

/-- Hours under `one_to_twelve`: toggled to 12, back to 1, stepping as the default where the spec states it, or the free value inside the
format (42_tod.md R162; notes/assumptions/13.md). -/
theorem nextHourOne_cases (v : Byte) :
    nextHourOne v = withPmFlag (!pmFlag v) 0x12 ∨ nextHourOne v = withPmFlag (pmFlag v) 0x01 ∨
      nextHourOne v = nextHourZero v ∨ nextHourOne v = Config.freeHour v &&& 0x9F := by
  simp only [nextHourOne]
  repeat' split
  all_goals simp

end Sys2Proof.Machine
end

