-- ==== Sys2Proof/Tests/Slice0.lean ====
section
/-! SUPPORT. Tests: the well-formedness check refuses ill-formed terms, every row's word decodes to its operation, one-step examples
with the values the spec prints, and for every obligation with hypotheses a state and operands that meet them. -/

namespace Sys2Proof.Tests

open Sys2Proof.Machine

/-! ### Helpers -/

/-- The reset state with a changed record of instance 1. -/
def one (f : Chip → Chip) : State := State.reset.mapChip .one f

/-- The reset state with a changed record of instance 2. -/
def two (f : Chip → Chip) : State := State.reset.mapChip .two f

/-- The next state, if there is one. -/
def next? : Host.Outcome State Fault Refusal → Option State
  | .next t => some t
  | .fault _ => none
  | .refused _ => none

/-- Something read off the state after an operation. -/
def after {α : Type} (i : Instr) (s : State) (f : State → α) : Option α := (next? (exec i s)).map f

/-- The decoder's answer as an option. -/
def decoded (r : Request) : Option Instr :=
  match decode r with
  | .ok i => some i
  | .error _ => none

/-- The decoder's reason for a refusal. -/
def refusedAs (r : Request) : Option DecodeError :=
  match decode r with
  | .ok _ => none
  | .error e => some e

/-! ### WellFormed refuses an address that selects another register (20_memory.md R62) -/

theorem test_wellFormed_refuses_reads :
    ([.rdPra1 0xDC01, .rdPra2 0xDD0F, .rdPrb1 0xDC00, .rdPrb2 0xDD02, .rdDdra .one 0xDC03, .rdDdrb .one 0xDC04,
      .rdTalo .one 0xDC05, .rdTahi .one 0xDC06, .rdTblo .one 0xDC07, .rdTbhi .one 0xDC08, .rdTod10 .one 0xDC09,
      .rdTodsec .one 0xDC0A, .rdTodmin .one 0xDC0B, .rdTodhr .one 0xDC0C, .rdSdr .one 0xDC0D,
      .rdIcr .one 0xDC0E, .rdCra .one 0xDC0F, .rdCrb .one 0xDC00] :
      List Instr).all (fun i => !i.wellFormed) = true := by decide

theorem test_wellFormed_refuses_writes :
    ([.wrPra .two 0xDD7F 0xFF, .wrPrb .two 0xDD70 0xFF, .wrDdra .two 0xDD71 0xFF, .wrDdrb .two 0xDD72 0xFF,
      .wrTalo .two 0xDD73 0xFF, .wrTahi .two 0xDD74 0xFF, .wrTblo .two 0xDD75 0xFF, .wrTbhi .two 0xDD76 0xFF,
      .wrTod10 .two 0xDD77 0xFF, .wrTodsec .two 0xDD78 0xFF, .wrTodmin .two 0xDD79 0xFF,
      .wrTodhr .two 0xDD7A 0xFF, .wrSdr .two 0xDD7B 0xFF, .wrIcr .two 0xDD7C 0xFF, .wrCra .two 0xDD7D 0xFF,
      .wrCrb .two 0xDD7E 0xFF] :
      List Instr).all (fun i => !i.wellFormed) = true := by decide

theorem test_wellFormed_admits_mirrors_and_pages :
    ([.rdIcr .one 0xDC1D, .rdIcr .one 0xFFFD, .wrSdr .two 0x000C 0, .cycle .one, .hostKey 7 7 true] :
      List Instr).all Instr.wellFormed = true := by decide

/-! ### Words written bit by bit from 30_encoding.md R81 and R84, `w mmmm oooo` -/

theorem test_decode_rdPra1 : decoded (.bus .one 0xDC 0b000000000 0x5A) = some (.rdPra1 0xDC00) := by decide
theorem test_decode_rdPra2 : decoded (.bus .two 0xDD 0b000110000 0x5A) = some (.rdPra2 0xDD30) := by decide
theorem test_decode_rdPrb1 : decoded (.bus .one 0xDC 0b011110001 0x5A) = some (.rdPrb1 0xDCF1) := by decide
theorem test_decode_rdPrb2 : decoded (.bus .two 0xDD 0b000000001 0x5A) = some (.rdPrb2 0xDD01) := by decide
theorem test_decode_rdDdra : decoded (.bus .one 0xDC 0b010100010 0x5A) = some (.rdDdra .one 0xDCA2) := by decide
theorem test_decode_rdDdrb : decoded (.bus .two 0xDD 0b011110011 0x5A) = some (.rdDdrb .two 0xDDF3) := by decide
theorem test_decode_rdTalo : decoded (.bus .one 0xDC 0b001000100 0x5A) = some (.rdTalo .one 0xDC44) := by decide
theorem test_decode_rdTahi : decoded (.bus .two 0xDD 0b010010101 0x5A) = some (.rdTahi .two 0xDD95) := by decide
theorem test_decode_rdTblo : decoded (.bus .one 0xDC 0b011100110 0x5A) = some (.rdTblo .one 0xDCE6) := by decide
theorem test_decode_rdTbhi : decoded (.bus .two 0xDD 0b000110111 0x5A) = some (.rdTbhi .two 0xDD37) := by decide
theorem test_decode_rdTod10 : decoded (.bus .one 0xDC 0b010001000 0x5A) = some (.rdTod10 .one 0xDC88) := by decide
theorem test_decode_rdTodsec : decoded (.bus .two 0xDD 0b011011001 0x5A) = some (.rdTodsec .two 0xDDD9) := by decide
theorem test_decode_rdTodmin : decoded (.bus .one 0xDC 0b000101010 0x5A) = some (.rdTodmin .one 0xDC2A) := by decide
theorem test_decode_rdTodhr : decoded (.bus .two 0xDD 0b001111011 0x5A) = some (.rdTodhr .two 0xDD7B) := by decide
theorem test_decode_rdSdr : decoded (.bus .one 0xDC 0b011001100 0x5A) = some (.rdSdr .one 0xDCCC) := by decide
theorem test_decode_rdIcr : decoded (.bus .two 0xDD 0b000011101 0x5A) = some (.rdIcr .two 0xDD1D) := by decide
theorem test_decode_rdCra : decoded (.bus .one 0xDC 0b001101110 0x5A) = some (.rdCra .one 0xDC6E) := by decide
theorem test_decode_rdCrb : decoded (.bus .two 0xDD 0b010111111 0x5A) = some (.rdCrb .two 0xDDBF) := by decide
theorem test_decode_wrPra : decoded (.bus .two 0xDD 0b100010000 0x5A) = some (.wrPra .two 0xDD10 0x5A) := by decide
theorem test_decode_wrPrb : decoded (.bus .one 0xDC 0b101000001 0x5A) = some (.wrPrb .one 0xDC41 0x5A) := by decide
theorem test_decode_wrDdra : decoded (.bus .two 0xDD 0b101110010 0x5A) = some (.wrDdra .two 0xDD72 0x5A) := by decide
theorem test_decode_wrDdrb : decoded (.bus .one 0xDC 0b110100011 0x5A) = some (.wrDdrb .one 0xDCA3 0x5A) := by decide
theorem test_decode_wrTalo : decoded (.bus .two 0xDD 0b111010100 0x5A) = some (.wrTalo .two 0xDDD4 0x5A) := by decide
theorem test_decode_wrTahi : decoded (.bus .one 0xDC 0b100000101 0x5A) = some (.wrTahi .one 0xDC05 0x5A) := by decide
theorem test_decode_wrTblo : decoded (.bus .two 0xDD 0b100110110 0x5A) = some (.wrTblo .two 0xDD36 0x5A) := by decide
theorem test_decode_wrTbhi : decoded (.bus .one 0xDC 0b101100111 0x5A) = some (.wrTbhi .one 0xDC67 0x5A) := by decide
theorem test_decode_wrTod10 : decoded (.bus .two 0xDD 0b110011000 0x5A) = some (.wrTod10 .two 0xDD98 0x5A) := by decide
theorem test_decode_wrTodsec : decoded (.bus .one 0xDC 0b111001001 0x5A) = some (.wrTodsec .one 0xDCC9 0x5A) := by decide
theorem test_decode_wrTodmin : decoded (.bus .two 0xDD 0b111111010 0x5A) = some (.wrTodmin .two 0xDDFA 0x5A) := by decide
theorem test_decode_wrTodhr : decoded (.bus .one 0xDC 0b100101011 0x5A) = some (.wrTodhr .one 0xDC2B 0x5A) := by decide
theorem test_decode_wrSdr : decoded (.bus .two 0xDD 0b101011100 0x5A) = some (.wrSdr .two 0xDD5C 0x5A) := by decide
theorem test_decode_wrIcr : decoded (.bus .one 0xDC 0b110001101 0x5A) = some (.wrIcr .one 0xDC8D 0x5A) := by decide
theorem test_decode_wrCra : decoded (.bus .two 0xDD 0b110111110 0x5A) = some (.wrCra .two 0xDDBE 0x5A) := by decide
theorem test_decode_wrCrb : decoded (.bus .one 0xDC 0b111101111 0x5A) = some (.wrCrb .one 0xDCEF 0x5A) := by decide
theorem test_decode_cycle : decoded (.cycle .one) = some (.cycle .one) := by decide
theorem test_decode_todTick : decoded (.todTick .two) = some (.todTick .two) := by decide
theorem test_decode_reset : decoded (.reset .two) = some (.reset .two) := by decide
theorem test_decode_hostKey : decoded (.hostKey .one 7 0 false) = some (.hostKey 7 0 false) := by decide
theorem test_decode_hostJoy : decoded (.hostJoy .one 2 0xEF) = some (.hostJoy .two 0xEF) := by decide
theorem test_decode_hostSer : decoded (.hostSer .two 0x40) = some (.hostSer 0x40) := by decide

/-! ### What the decoder refuses (30_encoding.md R92, 93_implementation_defined.md U21) -/

theorem test_refuses_key_on_instance2 : refusedAs (.hostKey .two 0 0 true) = some .hostKeyOnInstance2 := by decide
theorem test_refuses_key_row : refusedAs (.hostKey .one 8 0 true) = some .keyRowOutOfRange := by decide
theorem test_refuses_key_column : refusedAs (.hostKey .one 7 8 true) = some .keyColumnOutOfRange := by decide
theorem test_refuses_joystick_on_instance2 : refusedAs (.hostJoy .two 1 0) = some .hostJoyOnInstance2 := by decide
theorem test_refuses_joystick_zero : refusedAs (.hostJoy .one 0 0) = some .joystickOutOfRange := by decide
theorem test_refuses_joystick_three : refusedAs (.hostJoy .one 3 0) = some .joystickOutOfRange := by decide
theorem test_refuses_serial_on_instance1 : refusedAs (.hostSer .one 0) = some .hostSerOnInstance1 := by decide

/-! ### The table's words (spec/opcode_table.json) -/

theorem test_tableWord_rdIcr : decodeTableWord 16 0x00D = some (.rdIcr .one 0xDC0D) := by decide
theorem test_tableWord_wrCrb : decodeTableWord 16 0x10F = some (.wrCrb .one 0xDC0F 0x00) := by decide
theorem test_tableWord_too_wide : decodeTableWord 16 0x200 = none := by decide
theorem test_fetchWord_runs_first :
    (next? (step (State.reset.withFetchWord 16 0x005))).map (·.readData) = some (some 0xFF) := by decide

/-! ### One step each, the values from the examples of the rules named -/

/-- 43_register_file.md R185: keyboard column scan on a row table written by hand; key at row 1, column 2 down, column line 2 low. -/
theorem test_rdPra1 :
    after (.rdPra1 0xDC00)
      { one (fun ch => { ch with directionB := 0xFF, portB := 0xFB }) with
        inst1 := instance1AtReset.setKey 1 2 true } (·.readData) = some (some 0xFD) := by decide

/-- 95_test_vectors.md P4: rows 1 and 7 of the matrix, `W1 00 00` then `R1 01 = 7B`. -/
theorem test_rdPrb1 :
    after (.rdPrb1 0xDC01)
      { one (fun ch => { ch with directionA := 0xFF, portA := 0x00 }) with
        inst1 := (instance1AtReset.setKey 1 2 true).setKey 7 7 true } (·.readData) = some (some 0x7B) := by decide

/-- 43_register_file.md R188. -/
theorem test_rdPra2 :
    after (.rdPra2 0xDD00) { two (fun ch => { ch with portA := 0x15, directionA := 0x3F }) with serialBusLines := 0x80 }
      (·.readData) = some (some 0x95) := by decide

/-- 43_register_file.md R189. -/
theorem test_rdPrb2 :
    after (.rdPrb2 0xDD01) (two fun ch => { ch with portB := 0x5A, directionB := 0x0F }) (·.readData) = some (some 0xFA) := by
  decide

/-- 43_register_file.md R190. -/
theorem test_rdDdra :
    after (.rdDdra .one 0xDC02) (one fun ch => { ch with directionA := 0xFF }) (·.readData) = some (some 0xFF) := by decide

/-- 43_register_file.md R191. -/
theorem test_rdDdrb : after (.rdDdrb .two 0xDD03) State.reset (·.readData) = some (some 0x00) := by decide

/-- 43_register_file.md R198. -/
theorem test_rdTalo :
    after (.rdTalo .one 0xDC04) (one fun ch => { ch with timerA := { ch.timerA with value := 0x1234 } }) (·.readData) =
      some (some 0x34) := by decide

/-- 43_register_file.md R199. -/
theorem test_rdTahi :
    after (.rdTahi .one 0xDC05) (one fun ch => { ch with timerA := { ch.timerA with value := 0x1234 } }) (·.readData) =
      some (some 0x12) := by decide

/-- 43_register_file.md R200. -/
theorem test_rdTblo :
    after (.rdTblo .two 0xDD06) (two fun ch => { ch with timerB := { ch.timerB with value := 0x0002 } }) (·.readData) =
      some (some 0x02) := by decide

/-- 43_register_file.md R201. -/
theorem test_rdTbhi :
    after (.rdTbhi .two 0xDD07) (two fun ch => { ch with timerB := { ch.timerB with value := 0xABCD } }) (·.readData) =
      some (some 0xAB) := by decide

/-- 42_tod.md R163. -/
theorem test_rdTod10 :
    after (.rdTod10 .one 0xDC08) (one fun ch => { ch with todHalted := true, tod := ⟨0, 0, 0, 0x07⟩ })
      (fun t => (t.readData, t.chip1.todHalted)) = some (some 0x07, false) := by decide

/-- 42_tod.md R165. -/
theorem test_rdTodsec :
    after (.rdTodsec .one 0xDC09) (one fun ch => { ch with tod := ⟨0, 0, 0x42, 0⟩ }) (·.readData) = some (some 0x42) := by
  decide

/-- 42_tod.md R171. -/
theorem test_rdTodmin :
    after (.rdTodmin .two 0xDD0A) (two fun ch => { ch with tod := ⟨0, 0x07, 0, 0⟩ }) (·.readData) = some (some 0x07) := by
  decide

/-- 42_tod.md R164. -/
theorem test_rdTodhr :
    after (.rdTodhr .one 0xDC0B) (one fun ch => { ch with tod := ⟨0x81, 0x30, 0x15, 0x04⟩ })
      (fun t => (t.readData, t.chip1.todHalted)) = some (some 0x81, true) := by decide

/-- 43_register_file.md R206. -/
theorem test_rdSdr :
    after (.rdSdr .one 0xDC0C) (one fun ch => { ch with sdr := 0xA5 }) (·.readData) = some (some 0xA5) := by decide

/-- 41_interrupt_controller.md R145: `R1 1D` with `pending = 0x81`. -/
theorem test_rdIcr :
    after (.rdIcr .one 0xDC1D) (one fun ch => { ch with pending := 0x81, intLine := true })
      (fun t => (t.readData, t.chip1.pending, t.chip1.out)) = some (some 0x81, 0x00, [.irq false]) := by decide

/-- 43_register_file.md R208: the staged byte is not what is read. -/
theorem test_rdCra :
    after (.rdCra .one 0xDC0E)
      (one fun ch => { ch with timerA := { ch.timerA with pendingControl := 0x19, pendingValid := true } }) (·.readData) =
      some (some 0x00) := by decide

/-- 43_register_file.md R209. -/
theorem test_rdCrb :
    after (.rdCrb .two 0xDD0F) (two fun ch => { ch with timerB := { ch.timerB with control := 0x41 } }) (·.readData) =
      some (some 0x41) := by decide

/-- 43_register_file.md R192. -/
theorem test_wrPra :
    after (.wrPra .two 0xDD00 0x02) (two fun ch => { ch with directionA := 0x03 }) (fun t => (t.chip2.portA, t.chip2.out)) =
      some (0x02, [.shadow 0xDD00 0x02, .bank 1]) := by decide

/-- 43_register_file.md R193: the last write of its example. -/
theorem test_wrPrb :
    after (.wrPrb .one 0xDC01 0x00) (one fun ch => { ch with portB := 0x10, directionB := 0x10 })
      (fun t => (t.inst1.previousLightPenLine, t.chip1.out)) = some (0x00, [.shadow 0xDC01 0x00, .lightPen]) := by decide

/-- 43_register_file.md R194. -/
theorem test_wrDdra :
    after (.wrDdra .two 0xDD02 0x03) State.reset (fun t => (t.chip2.directionA, t.chip2.out)) =
      some (0x03, [.shadow 0xDD02 0x03, .bank 3]) := by decide

/-- 43_register_file.md R195. -/
theorem test_wrDdrb :
    after (.wrDdrb .one 0xDC03 0x10) State.reset (fun t => (t.inst1.previousLightPenLine, t.chip1.out)) =
      some (0x00, [.shadow 0xDC03 0x10, .lightPen]) := by decide

/-- 43_register_file.md R202. -/
theorem test_wrTalo :
    after (.wrTalo .one 0xDC04 0x34) (one fun ch => { ch with timerA := { ch.timerA with latch := 0x0000 } })
      (fun t => (t.chip1.timerA.latch, t.chip1.timerA.value)) = some (0x0034, 0xFFFF) := by decide

/-- 95_test_vectors.md S2. -/
theorem test_wrTahi :
    after (.wrTahi .one 0xDC05 0x12) (one fun ch => { ch with timerA := { ch.timerA with latch := 0x0034, value := 0x0000 } })
      (fun t => (t.chip1.timerA.latch, t.chip1.timerA.value)) = some (0x1234, 0x1234) := by decide

/-- 43_register_file.md R204. -/
theorem test_wrTblo :
    after (.wrTblo .two 0xDD06 0x02) State.reset (·.chip2.timerB.latch) = some 0xFF02 := by decide

/-- 43_register_file.md R205. -/
theorem test_wrTbhi :
    after (.wrTbhi .two 0xDD07 0x00) (two fun ch => { ch with timerB := { ch.timerB with latch := 0xFF02 } })
      (fun t => (t.chip2.timerB.latch, t.chip2.timerB.value)) = some (0x0002, 0x0002) := by decide

/-- 42_tod.md R175. -/
theorem test_wrTod10 :
    after (.wrTod10 .one 0xDC08 0xF7) State.reset (fun t => (t.chip1.tod.deciseconds, t.chip1.out)) =
      some (0x07, [.shadow 0xDC08 0xF7]) := by decide

/-- 42_tod.md R172. -/
theorem test_wrTodsec : after (.wrTodsec .one 0xDC09 0xD9) State.reset (·.chip1.tod.seconds) = some 0x59 := by decide

/-- 42_tod.md R173. -/
theorem test_wrTodmin :
    after (.wrTodmin .one 0xDC0A 0x30) (one fun ch => { ch with timerB := { ch.timerB with control := 0x80 } })
      (fun t => (t.chip1.alarm.minutes, t.chip1.tod.minutes)) = some (0x30, 0x00) := by decide

/-- 42_tod.md R174. -/
theorem test_wrTodhr :
    after (.wrTodhr .one 0xDC0B 0xF2) State.reset (fun t => (t.chip1.tod.hours, t.chip1.todHalted)) = some (0x92, false) := by
  decide

/-- 43_register_file.md R207. -/
theorem test_wrSdr :
    after (.wrSdr .two 0xDD0C 0x00) (two fun ch => { ch with sdr := 0x77 }) (fun t => (t.chip2.sdr, t.chip2.pending)) =
      some (0x00, 0x00) := by decide

/-- 41_interrupt_controller.md R142: a mask write that finds its source pending. -/
theorem test_wrIcr_signals :
    after (.wrIcr .one 0xDC0D 0x81) (one fun ch => { ch with pending := 0x01 })
      (fun t => (t.chip1.mask, t.chip1.pending, t.chip1.out)) =
      some (0x01, 0x81, [.shadow 0xDC0D 0x81, .irq true]) := by decide

/-- 41_interrupt_controller.md R146. -/
theorem test_wrIcr_quiet :
    after (.wrIcr .two 0xDD0D 0x82) State.reset (fun t => (t.chip2.mask, t.chip2.out)) =
      some (0x02, [.shadow 0xDD0D 0x82]) := by decide

/-- 43_register_file.md R210. -/
theorem test_wrCra :
    after (.wrCra .one 0xDC0E 0x09) State.reset
      (fun t => (t.chip1.timerA.pendingControl, t.chip1.timerA.pendingValid, t.chip1.timerA.countsSystemClock,
        t.chip1.timerA.control)) = some (0x09, true, true, 0x00) := by decide

/-- 43_register_file.md R211. -/
theorem test_wrCrb :
    after (.wrCrb .two 0xDD0F 0x41) State.reset
      (fun t => (t.chip2.timerB.pendingControl, t.chip2.timerB.pendingValid, t.chip2.timerB.countsSystemClock,
        t.chip2.timerB.countsOtherTimerUnderflow)) = some (0x41, true, false, true) := by decide

/-- 44_chip_cycle.md R231: an underflow of A seen by B in the same cycle. -/
theorem test_cycle_cascade :
    after (.cycle .two)
      (two fun ch => { ch with
        timerA := { ch.timerA with state := .count, value := 1, latch := 0x0003 }
        timerB := { ch.timerB with state := .count, value := 5, countsSystemClock := false, countsOtherTimerUnderflow := true } })
      (fun t => (t.chip2.timerA.state, t.chip2.timerA.value, t.chip2.timerB.value)) = some (.loadCount, 0x0003, 4) := by decide

/-- 95_test_vectors.md P1, cycle 4: the one-shot underflow of timer A with its interrupt enabled. -/
theorem test_cycle_one_shot :
    after (.cycle .one)
      (one fun ch => { ch with
        mask := 0x01, timerA := { ch.timerA with state := .count, value := 1, latch := 2, control := 0x09, pendingControl := 0x09 } })
      (fun t => (t.chip1.timerA.state, t.chip1.timerA.value, t.chip1.timerA.control, t.chip1.pending, t.chip1.out)) =
      some (.loadStop, 2, 0x08, 0x81, [.irq true]) := by decide

/-- 42_tod.md R156. -/
theorem test_todTick :
    after (.todTick .one) (one fun ch => { ch with todDivisor := 1 }) (fun t => (t.chip1.todDivisor, t.chip1.tod)) =
      some (5, ⟨0, 0, 0, 1⟩) := by decide

/-- 42_tod.md R167. -/
theorem test_todTick_alarm :
    after (.todTick .one)
      (one fun ch => { ch with tod := ⟨0x01, 0x00, 0x59, 0x09⟩, alarm := ⟨0x01, 0x01, 0x00, 0x00⟩, mask := 0x04 })
      (fun t => (t.chip1.tod, t.chip1.pending, t.chip1.out)) = some (⟨0x01, 0x01, 0x00, 0x00⟩, 0x84, [.irq true]) := by decide

/-- 70_reset_and_hazards.md R270. -/
theorem test_reset :
    after (.reset .one) (one fun ch => { ch with mask := 0x1F, pending := 0x81, intLine := true, portA := 0x55 })
      (fun t => (t.chip1.mask, t.chip1.pending, t.chip1.portA, t.chip1.out)) = some (0x00, 0x00, 0x00, [.irq false]) := by decide

/-- 43_register_file.md R213. -/
theorem test_hostKey :
    after (.hostKey 1 2 true) State.reset (fun t => (t.inst1.keyMatrix[1], t.inst1.reverseKeyMatrix[2])) = some (0xFB, 0xFD) := by
  decide

/-- 43_register_file.md R214. -/
theorem test_hostJoy : after (.hostJoy .one 0xEF) State.reset (·.inst1.joystick1) = some 0xEF := by decide

/-- 43_register_file.md R215: `SER 40`. -/
theorem test_hostSer : after (.hostSer 0x40) State.reset (·.serialBusLines) = some 0x40 := by decide

/-- 60_exceptions.md R241: an access out of page records its address and nothing else. -/
theorem test_fatal :
    after (.wrIcr .one 0xDD0D 0x81) State.reset (fun t => (t.chip1.fatal, t.chip1.mask, t.chip1.out)) =
      some (some 0xDD0D, 0x00, []) := by decide

/-- 42_tod.md R161, R159: the carry examples. -/
theorem test_clock_carries :
    (nextHourZero 0x09, nextHourZero 0x11, nextHourZero 0x91, nextSixty 0x09, nextSixty 0x5A, nextSixty 0x7F) =
      (0x10, 0x80, 0x00, (0x10, false), (0x00, true), (0x00, true)) := by decide

/-- 95_test_vectors.md V14 under `one_to_twelve`: the four rows that change, and rows 00, 09, 10, 19 and 1F, which do not. -/
theorem test_twelve_hour_rows :
    ([0x11, 0x91, 0x12, 0x92, 0x00, 0x09, 0x10, 0x19, 0x1F] : List Byte).map nextHourOne =
      [0x92, 0x12, 0x01, 0x81, 0x01, 0x10, 0x11, 0x80, 0x80] := by decide

/-- 00_scope.md R13: the masks and the reset values are read from the parameters. -/
theorem test_parameters_are_read :
    let s := { State.reset with cfg := { defaultConfig with
      todWriteMasks := { defaultTodMasks with seconds := 0x3F }, resetRecord := { defaultResetRecord with sdr := 0xA5 } } };
    (after (.wrTodsec .one 0xDC09 0xFF) s (·.chip1.tod.seconds), after (.reset .two) s (·.chip2.sdr)) =
      (some 0x3F, some 0xA5) := by decide

/-! ### Witnesses: for every obligation with hypotheses, a state and operands that meet them all -/

/-- A machine in use: mask and pending set, the clock running, both timers counting. -/
def busy : State :=
  { one (fun ch => { ch with
      mask := 0x1F, pending := 0x08, tod := ⟨0x91, 0x59, 0x59, 0x09⟩, alarm := ⟨0x06, 0x30, 0x00, 0x00⟩, todDivisor := 1,
      timerA := { ch.timerA with
        state := .count, value := 1, latch := 3, control := 0x01, pendingControl := 0x09, pendingValid := true },
      timerB := { ch.timerB with
        state := .count, value := 2, latch := 2, countsSystemClock := false, countsOtherTimerUnderflow := true,
        control := 0x41 } }) with
    inst1 := instance1AtReset.setKey 1 2 true, serialBusLines := 0x80 }

/-- `busy` with a request in its inbox. -/
def asked (r : Request) : State := { busy with inbox := [r] }

/-- A state whose timer A of instance 1 is as given, otherwise after reset. -/
def withTimerA (t : Timer) : State := one fun ch => { ch with timerA := t }

/-- A state of instance 1 whose clock is as given and whose next tick advances it. -/
def ticking (t : TodTime) : State := one fun ch => { ch with tod := t, todDivisor := 1 }

/-- A stuck instance 1 beside a live instance 2. -/
def stuckState : State := one fun ch => { ch with fatal := some 0xDD00 }

theorem test_busy_live : busy.live .one ∧ busy.live .two := by decide

theorem test_witness_StepRunsDecodedOperation :
    (asked (.bus .one 0xDC 0x104 0x34)).inbox = [.bus .one 0xDC 0x104 0x34] ∧
    decoded (.bus .one 0xDC 0x104 0x34) = some (.wrTalo .one 0xDC04 0x34) ∧
    (Instr.wrTalo .one 0xDC04 0x34).wellFormed = true := by decide

theorem test_witness_StepWithoutOperation :
    busy.inbox = [] ∧ (asked (.hostSer .one 0x40)).inbox = [.hostSer .one 0x40] ∧
    refusedAs (.hostSer .one 0x40) = some .hostSerOnInstance1 := by decide

theorem test_witness_DecodeEncodeRoundTrip : (Instr.rdIcr .two 0xDDFD).wellFormed = true := by decide

theorem test_witness_EncodeDecodeRoundTrip :
    decoded (.bus .two 0xDD 0x0FD 0x77) = some (.rdIcr .two 0xDDFD) := by decide

theorem test_witness_DecodeAcceptsExactlyTheDomain :
    (decoded (.hostKey .one 7 7 true)).isSome ∧ (decoded (.hostKey .one 7 8 true)).isNone ∧
    (decoded (.hostJoy .one 2 0)).isSome ∧ (decoded (.hostJoy .one 3 0)).isNone := by decide

theorem test_witness_FatalExactlyOutOfPage :
    busAddr (.rdIcr .one 0xDD0D) = some 0xDD0D ∧ busy.live .one ∧ pageOf 0xDD0D ≠ busy.pageByte .one ∧
    ((next? (exec (.rdIcr .one 0xDD0D) busy)).all fun t => decide (¬ t.live .one)) = true := by decide

theorem test_witness_FatalInstanceIsStuck : ¬ stuckState.live (instOf (.reset .one)) := by decide

theorem test_witness_TimerReadsGiveLiveValue : busy.live .one ∧ busy.live .two := test_busy_live
theorem test_witness_ControlReadsGiveEffectiveByte : busy.live .one ∧ busy.live .two := test_busy_live
theorem test_witness_DirectionAndSerialReads : busy.live .one ∧ busy.live .two := test_busy_live
theorem test_witness_SecondsAndMinutesReads : busy.live .one ∧ busy.live .two := test_busy_live
theorem test_witness_Instance2PortReads : busy.live .two := test_busy_live.2
theorem test_witness_Instance1PortReadsBitwise : busy.live .one := test_busy_live.1
theorem test_witness_PortAWritesNotifyBank : busy.live .one ∧ busy.live .two := test_busy_live
theorem test_witness_PortBWritesCheckLightPen : busy.live .one ∧ busy.live .two := test_busy_live
theorem test_witness_LatchLowWritesChangeLatchOnly : busy.live .one ∧ busy.live .two := test_busy_live
theorem test_witness_LatchHighWritesLoadStoppedTimer : busy.live .one ∧ busy.live .two := test_busy_live
theorem test_witness_ControlWritesStageAndSelectInput : busy.live .one ∧ busy.live .two := test_busy_live
theorem test_witness_TodWritesRouteByAlarmSelect : busy.live .one ∧ busy.live .two := test_busy_live
theorem test_witness_MirrorsAreOneRegister : busy.live .one ∧ busy.live .two := test_busy_live
theorem test_witness_CycleTouchesTimersAndInterruptOnly : busy.live .one ∧ busy.live .two := test_busy_live

theorem test_witness_HoursReadHaltsDecisecondsReadReleases :
    busy.live .one ∧ pageOf 0xDD08 ≠ busy.pageByte .one := by decide

theorem test_witness_IcrReadReturnsAndClears : busy.live .two ∧ pageOf 0xDC0D ≠ busy.pageByte .two := by decide

theorem test_witness_IcrWriteSetsMaskAndSignals : busy.live .one ∧ pageOf 0x000D ≠ busy.pageByte .one := by decide

/-- Rows 0 and 7 and no row. -/
theorem test_witness_KeyboardScanReadsSelectedRow :
    ([0xFE, 0x7F, 0xFF] : List Byte).all (fun a =>
      let s := one fun ch => { ch with directionA := 0xFF, portA := a };
      decide (s.live .one ∧ s.chip1.directionA = 0xFF ∧ s.chip1.directionB = 0x00 ∧ s.inst1.joystick1 = 0xFF ∧
        s.inst1.joystick2 = 0xFF)) = true ∧
    (0xFE : Byte) = ~~~(1#8 <<< 0) ∧ (0x7F : Byte) = ~~~(1#8 <<< 7) := by decide

/-- The default, and the alternative with the serial source masked and enabled. -/
theorem test_witness_SerialWriteStores :
    (busy.live .one ∧ busy.cfg.sdrWriteRaises = false) ∧
    (let s := { State.reset with cfg := { defaultConfig with sdrWriteRaises := true } };
      s.live .one ∧ s.cfg.sdrWriteRaises = true ∧ (s.chip .one).mask.getLsbD 3 = false) ∧
    (let s := { busy with cfg := { defaultConfig with sdrWriteRaises := true } };
      s.live .one ∧ s.cfg.sdrWriteRaises = true ∧ (s.chip .one).mask.getLsbD 3 = true) := by decide

theorem test_witness_TimersFollowStateTable :
    busy.live .one ∧ (next? (exec (.cycle .one) busy)).isSome = true ∧ ((busy.chip .one).timer .b).pendingValid = false := by
  decide

theorem test_witness_StagedWriteAppliesAtCycleEnd :
    busy.live .one ∧ (next? (exec (.cycle .one) busy)).isSome = true ∧ busy.cfg.idleTable = defaultIdleTable ∧
    busy.cfg.controlKeepsForceLoad = false ∧ ((busy.chip .one).timer .a).pendingValid = true := by decide

/-- Timer A fires and timer B, which counts from 2, does not. -/
theorem test_witness_FiredTimersRaiseAndDeliver :
    busy.live .one ∧ (busy.chip .one).timerA.interruptPendingNextCycle = false ∧
    (busy.chip .one).timerB.interruptPendingNextCycle = false ∧
    ((next? (exec (.cycle .one) busy)).all fun t =>
      firesNow busy.cfg.countStopUnderflow (inputActive .a (busy.chip .one).timerA (t.chip .one)) (busy.chip .one).timerA &&
      !firesNow busy.cfg.countStopUnderflow (inputActive .b (busy.chip .one).timerB (t.chip .one)) (busy.chip .one).timerB) =
      true := by decide

/-- Start from `Stop` at the boundary values 2 and 0xFFFF; stop a timer at 3, the least value the second clause takes. -/
theorem test_witness_ControlWriteLatency :
    pageOf 0xDC0E = State.reset.pageByte .one ∧ State.reset.cfg.idleTable = defaultIdleTable ∧
    (0x01 : Byte).getLsbD 4 = false ∧ (0x01 : Byte).getLsbD 5 = false ∧ (0x01 : Byte).getLsbD 0 = true ∧
    (0x00 : Byte).getLsbD 4 = false ∧ (0x00 : Byte).getLsbD 5 = false ∧ (0x00 : Byte).getLsbD 0 = false ∧
    (let s := withTimerA { timerAtReset with value := 2 };
      s.live .one ∧ (s.chip .one).timerA.state = .stop ∧ (s.chip .one).timerA.value ≠ 0 ∧ (s.chip .one).timerA.value ≠ 1) ∧
    (let s := State.reset;
      s.live .one ∧ (s.chip .one).timerA.state = .stop ∧ (s.chip .one).timerA.value ≠ 0 ∧ (s.chip .one).timerA.value ≠ 1) ∧
    (let s := withTimerA { timerAtReset with state := .count, value := 3, control := 0x01 };
      s.live .one ∧ (s.chip .one).timerA.state = .count ∧ 2 < (s.chip .one).timerA.value.toNat) := by decide

/-- Latches 0, 1 and 0xFFFF. -/
theorem test_witness_FreeRunningPeriod :
    ([0x0000, 0x0001, 0xFFFF] : List Count).all (fun n =>
      let s := withTimerA { timerAtReset with state := .loadCount, latch := n, control := 0x01 };
      decide (s.live .one ∧ ((s.chip .one).timer .a).state = .loadCount ∧ ((s.chip .one).timer .a).pendingValid = false ∧
        ((s.chip .one).timer .a).countsSystemClock = true ∧ ((s.chip .one).timer .a).control.getLsbD 3 = false)) = true := by
  decide

/-- A counting timer B with value 2, the least it decrements from, in a cycle in which A underflows. -/
theorem test_witness_CascadeCountsTimerAUnderflows :
    busy.live .one ∧ (busy.chip .one).timerB.countsSystemClock = false ∧
    (busy.chip .one).timerB.countsOtherTimerUnderflow = true ∧ (busy.chip .one).timerB.state = .count ∧
    (busy.chip .one).timerB.value ≠ 0 ∧ (busy.chip .one).timerB.value ≠ 1 ∧
    ((next? (exec (.cycle .one) busy)).all fun t => (t.chip .one).timerA.underflowedThisCycle) = true := by decide

/-- The other clauses: B at value 1, B stopped, and A in `LoadWaitCount` with value 1. -/
theorem test_witness_CascadeOtherClauses :
    let b := { (busy.chip .one).timerB with value := 1 };
    let s := { busy with chip1 := { busy.chip1 with timerB := b } };
    let u := { busy with chip1 := { busy.chip1 with timerB := { b with state := .stop } } };
    let w := { busy with chip1 := { busy.chip1 with timerA := { busy.chip1.timerA with state := .loadWaitCount } } };
    (s.live .one ∧ (s.chip .one).timerB.state = .count ∧ (s.chip .one).timerB.value = 1 ∧
      ((next? (exec (.cycle .one) s)).all fun t => (t.chip .one).timerA.underflowedThisCycle) = true) ∧
    (u.live .one ∧ (u.chip .one).timerB.state ≠ .count ∧ (u.chip .one).timerB.state ≠ .countStop) ∧
    (w.live .one ∧ (w.chip .one).timerA.state = .loadWaitCount ∧ (w.chip .one).timerA.value = 1 ∧
      ((next? (exec (.cycle .one) w)).all fun t => !(t.chip .one).timerA.underflowedThisCycle) = true) := by decide

theorem test_witness_OneShotUnderflowLosesStagedRun :
    let s := withTimerA { timerAtReset with
      state := .count, value := 1, latch := 5, control := 0x09, pendingControl := 0x01, pendingValid := true }
    s.live .one ∧ s.cfg.idleTable = defaultIdleTable ∧ ((s.chip .one).timer .a).state = .count ∧
    ((s.chip .one).timer .a).countsSystemClock = true ∧ ((s.chip .one).timer .a).value = 1 ∧
    ((s.chip .one).timer .a).control.getLsbD 3 = true ∧ ((s.chip .one).timer .a).pendingValid = true := by decide

theorem test_witness_OnlyAcknowledgeAndResetRetract :
    ((next? (exec (.wrIcr .one 0xDC0D 0x1F) { busy with chip1 := { busy.chip1 with pending := 0x81, intLine := true } })).all
      fun t => t.chip1.pending == 0x81 && t.chip1.intLine && t.chip1.mask == 0x00) = true := by decide

theorem test_witness_TraceGrowsByOwnEvents :
    (next? (exec (.wrPra .two 0xDD00 0x00) busy)).isSome = true ∧ instOf (.wrPra .two 0xDD00 0x00) ≠ .one := by decide

/-- The first clause; the second clause for a read, for a stuck instance, and out of page. -/
theorem test_witness_ShadowBankFrame :
    (writeOf (.wrIcr .one 0xDC1D 0x81) = some (0xDC1D, 0x81) ∧ busy.live .one ∧ pageOf 0xDC1D = busy.pageByte .one) ∧
    writeOf (.rdIcr .one 0xDC0D) = none ∧ ¬ stuckState.live (instOf (.wrIcr .one 0xDC0D 0x81)) ∧
    (writeOf (.wrIcr .one 0xDD0D 0x81) = some (0xDD0D, 0x81) ∧ pageOf 0xDD0D ≠ busy.pageByte .one) := by decide

/-- Its five clauses: halted; divisor 2; divisor 1 with no match; a match not enabled; a match enabled. -/
theorem test_witness_TodTickDividesAdvancesAndCompares :
    let at' := fun (ch : Chip) => (if ch.todDivisor = 0 then 0 else ch.todDivisor - 1 : Byte);
    let advanced := (busy.chip1.tod.advance .zeroToEleven);
    (({ busy.chip1 with todHalted := true } : Chip).todHalted = true) ∧
    (busy.chip1.todHalted = false ∧ at' { busy.chip1 with todDivisor := 2 } ≠ 0) ∧
    (at' busy.chip1 = 0 ∧ advanced ≠ busy.chip1.alarm) ∧
    (let ch := { busy.chip1 with tod := ⟨0x91, 0x59, 0x59, 0x08⟩, alarm := ⟨0x91, 0x59, 0x59, 0x09⟩, mask := 0x00 };
      ch.todHalted = false ∧ at' ch = 0 ∧ ch.tod.advance .zeroToEleven = ch.alarm ∧ ch.mask.getLsbD 2 = false) ∧
    (let ch := { busy.chip1 with tod := ⟨0x91, 0x59, 0x59, 0x08⟩, alarm := ⟨0x91, 0x59, 0x59, 0x09⟩ };
      ch.todHalted = false ∧ at' ch = 0 ∧ ch.tod.advance .zeroToEleven = ch.alarm ∧ ch.mask.getLsbD 2 = true) := by decide

/-- Its five clauses at their boundaries: units 8, units 9 with seconds 0x58, minutes 0x58, hours 0x10, hours 0x11. -/
theorem test_witness_ClockCarriesOnAnyDigits :
    ([⟨0, 0, 0, 0x08⟩, ⟨0, 0, 0x58, 0x09⟩, ⟨0, 0x58, 0x59, 0x0F⟩, ⟨0x10, 0x59, 0x59, 0x09⟩, ⟨0x11, 0x7F, 0x5A, 0x09⟩] :
      List TodTime).all (fun c =>
        let s := ticking c;
        decide (s.live .one ∧ s.cfg.todHourStyle = .zeroToEleven ∧ (s.chip .one).todHalted = false ∧
          ((s.chip .one).todDivisor = 0 ∨ (s.chip .one).todDivisor = 1)) && (next? (exec (.todTick .one) s)).isSome) = true ∧
    sixtyPlusOne 0x58 < 0x60 ∧ 0x60 ≤ sixtyPlusOne 0x59 ∧ 0x60 ≤ sixtyPlusOne 0x5A ∧ 0x60 ≤ sixtyPlusOne 0x7F ∧
    hourPlusOne 0x10 ≤ 0x11 ∧ 0x11 < hourPlusOne 0x11 := by decide

theorem test_witness_ValidClockAdvancesOneTenth :
    let s := ticking ⟨0x91, 0x59, 0x59, 0x09⟩;
    s.live .one ∧ (next? (exec (.todTick .one) s)).isSome = true ∧ s.cfg.todHourStyle = .zeroToEleven ∧
    (s.chip .one).todHalted = false ∧ ((s.chip .one).todDivisor = 0 ∨ (s.chip .one).todDivisor = 1) ∧
    ((0x91 % 16 ≤ 9 ∧ 0x91 % 128 ≤ 0x11) ∧ (0x59 % 16 ≤ 9 ∧ 0x59 / 16 ≤ 5)) := by decide

/-- The hours 0x12, 0x11, 0x10, 0x09, 0x01, 0x08, 0x00, 0x19 and 0x1F, with and without the flag. -/
theorem test_witness_TwelveHourStyleSequence :
    ([0x12, 0x11, 0x10, 0x09, 0x01, 0x08, 0x00, 0x19, 0x1F, 0x92, 0x91, 0x90, 0x89, 0x81, 0x88, 0x80, 0x99, 0x9F] :
      List Byte).all (fun h =>
      let s := { ticking ⟨h, 0x59, 0x59, 0x09⟩ with cfg := { defaultConfig with todHourStyle := .oneToTwelve } };
      decide (s.live .one ∧ s.cfg.todHourStyle = .oneToTwelve ∧ (s.chip .one).todHalted = false ∧
        (s.chip .one).todDivisor = 1 ∧ (s.chip .one).tod.minutes = 0x59 ∧ (s.chip .one).tod.seconds = 0x59 ∧
        (s.chip .one).tod.deciseconds = 0x09)) = true ∧
    (0x92 : Byte) = 0x80 ||| 0x12 ∧ (0x88 : Byte) = 0x80 ||| 0x08 ∧ (1 : Byte) ≤ 1 ∧ (8 : Byte) ≤ 8 := by decide

theorem test_witness_ResetRestoresTheRecord : busy.live .one ∧ busy.live .two := test_busy_live

/-- Both ends of the rows and columns. -/
theorem test_witness_HostKeyMovesOneKey :
    busy.live .one ∧ after (.hostKey 0 7 true) busy (·.inst1.keyMatrix[0]) = some 0x7F ∧
    after (.hostKey 7 0 true) busy (·.inst1.reverseKeyMatrix[0]) = some 0x7F := by decide

theorem test_witness_HostJoystickAndSerialInputs : busy.live .one ∧ busy.live .two := test_busy_live

theorem test_witness_InstancesShareNothing :
    (next? (exec (.cycle .one) busy)).isSome = true ∧ instOf (.cycle .one) = .one ∧
    (next? (exec (.hostSer 0x40) busy)).isSome = true ∧ instOf (.hostSer 0x40) = .two := by decide

theorem test_witness_OperationsOnDifferentInstancesCommute : instOf (.rdIcr .one 0xDC0D) ≠ instOf (.cycle .two) := by decide

/-- A state other than reset that meets the invariant, and its step: a key down, an enabled source pending, the summary bit and the line
set, the light-pen pin low. -/
theorem test_witness_StepKeepsInvariant :
    let s := { one (fun ch => { ch with mask := 0x01, pending := 0x81, intLine := true, directionB := 0x10 }) with
      inst1 := { instance1AtReset.setKey 1 2 true with previousLightPenLine := 0x00 }, inbox := [.cycle .one] }
    StateInv s ∧ (next? (step s)).isSome = true := by
  refine ⟨⟨⟨by decide, ?_, by unfold keysTransposed; decide, by unfold lightPenObserved; decide⟩, ?_, ?_,
    by unfold keysTransposed; decide, by unfold lightPenObserved; decide⟩, by decide⟩ <;>
    exact { mask_top := by decide, pending_spare := by decide, timerA_no_cascade := by decide,
            timerB_one_input := by decide, timerA_delivered := by decide, timerB_delivered := by decide,
            line_is_summary := by decide, summary_law := by decide, tod_format := by unfold todFormat; decide,
            alarm_format := by unfold todFormat; decide, timerA_strobe := by decide, timerB_strobe := by decide }

theorem test_witness_LowLatchByteReplacesItsHalf : busy.live .one ∧ busy.live .two := test_busy_live

/-- At a mirror, with a disabled source pending. -/
theorem test_witness_ReadAndClearReturnsEverySource :
    busy.live .one ∧ pageOf 0xDC1D = busy.pageByte .one ∧ after (.rdIcr .one 0xDC1D) busy (·.readData) = some (some 0x08) := by
  decide

/-- Both clauses, at a source enabled and one not (41_interrupt_controller.md R141: mask 04, pending 02 gives 86). -/
theorem test_witness_RaiseLatchesAndTellsWhetherEnabled :
    let ch := { busy.chip1 with mask := 0x04, pending := 0x02 };
    ch.mask &&& 0x01 = 0 ∧ ch.mask &&& 0x04 ≠ 0 ∧ (ch.raise 0x04).1.pending = 0x86 ∧ (ch.raise 0x04).2 = true := by decide

end Sys2Proof.Tests
end

section
/-! PROOFS. The fatal condition (20_memory.md R63; 60_exceptions.md R241, R242): what an operation does in its page never writes
`fatal`, so that an instance becomes fatal by an access out of its page and in no other way. -/

namespace Sys2Proof.Machine

/-! ### The chip's own operations keep `fatal` -/

@[simp] theorem acknowledge_fatal (c : Inst) (ch : Chip) : (ch.acknowledge c).fatal = ch.fatal := rfl
@[simp] theorem writeMask_fatal (c : Inst) (v : Byte) (ch : Chip) : (ch.writeMask c v).fatal = ch.fatal := by
  rw [writeMask_fields]
@[simp] theorem writeSdr_fatal (cfg : Config) (c : Inst) (v : Byte) (ch : Chip) :
    (ch.writeSdr cfg c v).fatal = ch.fatal := by
  rw [writeSdr_fields]
@[simp] theorem todWrite_fatal (masks : TodMasks) (f : TodField) (v : Byte) (ch : Chip) :
    (ch.todWrite masks f v).fatal = ch.fatal := by
  rw [todWrite_fields]
@[simp] theorem todTick_fatal (cfg : Config) (c : Inst) (ch : Chip) : (ch.todTick cfg c).fatal = ch.fatal := by
  rw [todTick_fields]
@[simp] theorem cycle_fatal (cfg : Config) (c : Inst) (ch : Chip) : (ch.cycle cfg c).fatal = ch.fatal := by
  simp only [Chip.cycle, Chip.processIrq, deliverB_eq, deliverA_eq, Chip.update]
@[simp] theorem resetPart_fatal (cfg : Config) (c : Inst) (ch : Chip) : (ch.resetPart cfg c).fatal = ch.fatal := rfl

/-! ### The state's updates keep every instance's `fatal` -/

/-- A record put in place of one with the same `fatal`. -/
theorem setChip_fatal {s : State} {c : Inst} {ch : Chip} (d : Inst) (h : ch.fatal = (s.chip c).fatal) :
    ((s.setChip c ch).chip d).fatal = (s.chip d).fatal := by
  by_cases hd : d = c
  · subst hd
    rw [chip_setChip_same, h]
  · rw [chip_setChip_ne s ch hd]

theorem mapChip_fatal (s : State) (c d : Inst) {f : Chip → Chip} (h : ∀ ch, (f ch).fatal = ch.fatal) :
    ((s.mapChip c f).chip d).fatal = (s.chip d).fatal :=
  setChip_fatal d (h _)

theorem leaving_fatal {s : State} {c : Inst} {ch : Chip} (d : Inst) (h : ch.fatal = (s.chip c).fatal) :
    ((s.leaving c ch).chip d).fatal = (s.chip d).fatal := by
  rw [← noData_setChip, noData_chip, setChip_fatal d h]

theorem reading_fatal {s : State} {c : Inst} {ch : Chip} (d : Inst) (v : Byte) (h : ch.fatal = (s.chip c).fatal) :
    ((s.reading c v ch).chip d).fatal = (s.chip d).fatal := by
  rw [← setChip_fatal d h]
  cases d <;> rfl

theorem written_fatal (s : State) (c d : Inst) (addr : Addr) (v : Byte) {f : Chip → Chip}
    (h : ∀ ch, (f ch).fatal = ch.fatal) : ((s.written c addr v f).chip d).fatal = (s.chip d).fatal :=
  leaving_fatal d (h _)

@[simp] theorem afterPortA_fatal (s : State) (c d : Inst) : ((s.afterPortA c).chip d).fatal = (s.chip d).fatal := by
  cases c
  · rfl
  · exact mapChip_fatal s .two d fun _ => rfl

@[simp] theorem afterPortB_fatal (s : State) (c d : Inst) : ((s.afterPortB c).chip d).fatal = (s.chip d).fatal := by
  cases c
  · simp only [State.afterPortB, lightPenCheck_fields]
    cases d <;> rfl
  · rfl

@[simp] theorem resetInputs_chip (s : State) (c d : Inst) : (s.resetInputs c).chip d = s.chip d := by
  cases c <;> cases d <;> rfl

/-! ### Operations -/

/-- What an operation does on a live instance, in its page, writes neither instance's `fatal`. -/
theorem ordinary_fatal (s : State) (i : Instr) (d : Inst) : ((ordinary s i).chip d).fatal = (s.chip d).fatal := by
  cases i
  case rdPra1 | rdPra2 | rdPrb1 | rdPrb2 | rdDdra | rdDdrb | rdTalo | rdTahi | rdTblo | rdTbhi | rdTod10 | rdTodsec |
      rdTodmin | rdTodhr | rdSdr | rdIcr | rdCra | rdCrb =>
    exact reading_fatal d _ rfl
  case wrPra | wrDdra =>
    simp only [ordinary, noData_chip, afterPortA_fatal]
    exact mapChip_fatal s _ d fun _ => rfl
  case wrPrb | wrDdrb =>
    simp only [ordinary, noData_chip, afterPortB_fatal]
    exact mapChip_fatal s _ d fun _ => rfl
  case wrTalo | wrTahi | wrTblo | wrTbhi | wrCra | wrCrb => exact written_fatal s _ d _ _ fun _ => rfl
  case wrTod10 | wrTodsec | wrTodmin | wrTodhr => exact written_fatal s _ d _ _ (todWrite_fatal _ _ _)
  case wrSdr => exact written_fatal s _ d _ _ (writeSdr_fatal _ _ _)
  case wrIcr => exact written_fatal s _ d _ _ (writeMask_fatal _ _)
  case cycle => exact leaving_fatal d (cycle_fatal ..)
  case todTick => exact leaving_fatal d (todTick_fatal ..)
  case reset c =>
    simp only [ordinary, noData_chip, resetInputs_chip]
    exact mapChip_fatal s c d (resetPart_fatal _ _)
  case hostKey | hostJoy | hostSer => cases d <;> rfl

/-- The fatal exception reaches no instance but the one accessed. -/
theorem raiseFatal_chip_ne (s : State) {c d : Inst} (addr : Addr) (h : d ≠ c) :
    (s.raiseFatal c addr).chip d = s.chip d := by
  rw [State.raiseFatal, noData_chip, mapChip_eq, chip_setChip_ne s _ h]

/-- Settles O8: of the three ways an operation goes (`exec_cases`), only the access out of the page writes `fatal`, and only on its own
instance. -/
theorem fatalExactlyOutOfPage : Obligations.FatalExactlyOutOfPage := by
  refine ⟨fun i addr s ha hl hp => ?_, fun i s t c hl he ht => ?_⟩
  · rw [exec_outOfPage hl ha hp, raiseFatal_eq]
  · obtain ⟨-, rfl⟩ | ⟨-, -, rfl⟩ | ⟨-, addr, ha, hp, rfl⟩ := exec_cases he
    · exact absurd (by rwa [State.live, noData_chip]) ht
    · exact absurd ((ordinary_fatal s i c).trans hl) ht
    · by_cases hc : c = instOf i
      · subst hc
        exact ⟨rfl, addr, ha, hp⟩
      · exact absurd (by rwa [State.live, raiseFatal_chip_ne s addr hc]) ht

end Sys2Proof.Machine
end

section
/-! PROOFS. Bus accesses of a live instance in its page, read off `ordinary` at every mirror (20_memory.md R62), and the interrupt
controller: `Raise`, the mask write and the acknowledge (41_interrupt_controller.md R141 to R146). -/

namespace Sys2Proof.Machine

/-! ### Bus accesses in the page -/

/-- A bus operation whose address is in its instance's page does what it does ordinarily. -/
theorem exec_ordinary_inPage {i : Instr} {s : State} {addr : Addr} (hl : s.live (instOf i)) (ha : busAddr i = some addr)
    (hp : pageOf addr = s.pageByte (instOf i)) : exec i s = .next (ordinary s i) :=
  exec_ordinary hl fun a h => by
    obtain rfl : addr = a := Option.some.inj (ha.symm.trans h)
    exact hp

/-- A read row answers at every mirror what its operation does ordinarily, when that is one state for all addresses. -/
theorem readGives_of_ordinary {s t : State} {c : Inst} {k : BitVec 4} {i : Addr → Instr} (hl : s.live c)
    (hd : ∀ page m data, decode (.bus c page (readWord m k) data) = .ok (i (page ++ m ++ k)))
    (hc : ∀ addr, instOf (i addr) = c) (ha : ∀ addr, busAddr (i addr) = some addr)
    (ho : ∀ addr, ordinary s (i addr) = t) : ReadGives s c k i t := by
  refine fun m data => ⟨hd _ m data, ?_⟩
  rw [← ho (s.regAddr c m k)]
  refine exec_ordinary_inPage ?_ (ha _) ?_ <;> rw [hc]
  · exact hl
  · exact pageOf_regAddr s c m k

/-- A write row answers at every mirror what its operation does ordinarily at that address. -/
theorem writeGives_of_ordinary {s : State} {c : Inst} {k : BitVec 4} {v : Byte} {i : Addr → Byte → Instr}
    {t : Addr → State} (hl : s.live c)
    (hd : ∀ page m, decode (.bus c page (writeWord m k) v) = .ok (i (page ++ m ++ k) v))
    (hc : ∀ addr, instOf (i addr v) = c) (ha : ∀ addr, busAddr (i addr v) = some addr)
    (ho : ∀ addr, ordinary s (i addr v) = t addr) : WriteGives s c k v i t := by
  refine fun m => ⟨hd _ m, ?_⟩
  rw [← ho]
  refine exec_ordinary_inPage ?_ (ha _) ?_ <;> rw [hc]
  · exact hl
  · exact pageOf_regAddr s c m k

/-! ### Raising sources (R141) -/

theorem raise_disabled {ch : Chip} {m : Byte} (h : ch.mask &&& m = 0) :
    ch.raise m = ({ ch with pending := ch.pending ||| m }, false) := by
  simp [Chip.raise, Chip.enabled, h]

theorem raise_enabled {ch : Chip} {m : Byte} (h : ch.mask &&& m ≠ 0) :
    ch.raise m = ({ ch with pending := ch.pending ||| m ||| 0x80 }, true) :=
  if_pos ((enabled_iff ch m).2 h)

/-- Sources that are pending already are not raised twice: the mask, which decides the answer, is not touched by a raise. -/
theorem raise_raise (ch : Chip) (m : Byte) : (ch.raise m).1.raise m = ch.raise m := by
  by_cases h : ch.mask &&& m = 0
  · have again : ch.pending ||| m ||| m = ch.pending ||| m := by rw [BitVec.or_assoc, BitVec.or_self]
    rw [raise_disabled h, raise_disabled (by exact h), again]
  · have again : ch.pending ||| m ||| 0x80 ||| m ||| 0x80 = ch.pending ||| m ||| 0x80 := by
      ext j
      simp only [BitVec.getElem_or]
      cases ch.pending[j] <;> cases m[j] <;> simp
    rw [raise_enabled h, raise_enabled (by exact h), again]

/-- Settles O53, with the mask's overlap with `m` deciding between `raise_disabled` and `raise_enabled`. -/
theorem raiseLatchesAndTellsWhetherEnabled : Obligations.RaiseLatchesAndTellsWhetherEnabled :=
  fun ch m => ⟨raise_disabled, raise_enabled, raise_raise ch m⟩

/-! ### The acknowledge (R144, R145) -/

/-- Settles O15: the row `RD_ICR` at every mirror, and the access out of page. -/
theorem icrReadReturnsAndClears : Obligations.IcrReadReturnsAndClears := by
  refine ⟨fun s c hl => ?_, fun s c addr hl hp => ?_⟩
  · exact readGives_of_ordinary hl (decode_rdIcr c) (fun _ => rfl) (fun _ => rfl) fun _ => rfl
  · exact exec_outOfPage (i := .rdIcr c addr) hl rfl hp

theorem reading_chip_same (s : State) (c : Inst) (v : Byte) (ch : Chip) : (s.reading c v ch).chip c = ch := by
  cases c <;> rfl

/-- Settles O52: the fields of the acknowledged record, which the state after the read holds. -/
theorem readAndClearReturnsEverySource : Obligations.ReadAndClearReturnsEverySource := by
  refine fun s c addr hl hp => ⟨_, exec_ordinary_inPage (i := .rdIcr c addr) hl rfl hp, rfl, ?_⟩
  rw [show (ordinary s (.rdIcr c addr)).chip c = (s.chip c).acknowledge c from reading_chip_same .., acknowledge_eq]
  exact ⟨rfl, rfl, rfl, rfl, rfl, rfl⟩

/-! ### The mask write (R142, R146) -/

/-- The mask write after its shadow write: the gate is asked of `pending` and the new mask, neither of which the shadow event touches,
and the line's event, if any, follows the shadow event. -/
theorem written_writeMask (s : State) (c : Inst) (addr : Addr) (v : Byte) :
    s.written c addr v (Chip.writeMask c v) =
      if (s.chip c).pending &&& maskAfter (s.chip c).mask v &&& 0x1F = 0 then
        s.storing c addr v [] { s.chip c with mask := maskAfter (s.chip c).mask v }
      else
        s.storing c addr v [lineEvent c true]
          { s.chip c with mask := maskAfter (s.chip c).mask v, pending := (s.chip c).pending ||| 0x80, intLine := true } := by
  rw [State.written, writeMask_eq, emit_pending, emit_mask]
  split
  · rfl
  · rw [emit_out, List.append_assoc]
    rfl

/-- Settles O26: the row `WR_ICR` at every mirror, and the access out of page. -/
theorem icrWriteSetsMaskAndSignals : Obligations.IcrWriteSetsMaskAndSignals := by
  refine ⟨fun s c v hl => ?_, fun s c addr v hl hp => ?_⟩
  · exact writeGives_of_ordinary hl (decode_wrIcr c · · v) (fun _ => rfl) (fun _ => rfl)
      fun addr => written_writeMask s c addr v
  · exact exec_outOfPage (i := .wrIcr c addr v) hl rfl hp

end Sys2Proof.Machine
end

section
/-! PROOFS. The register file (43_register_file.md): the low latch bytes (R202, R204), and the folding of the sixteen mirrors of a
register into one operation (20_memory.md R62), a write's shadow event excepted (R183). -/

namespace Sys2Proof.Machine

/-! ### The low latch bytes (R202, R204) -/

theorem writeLatchLo_eq (v : Byte) (t : Timer) : t.writeLatchLo v = { t with latch := t.latch.extractLsb' 8 8 ++ v } := by
  rw [Timer.writeLatchLo, withLo8_eq]

/-- Settles O21: the rows `WR_TALO` and `WR_TBLO` at every mirror. -/
theorem latchLowWritesChangeLatchOnly : Obligations.LatchLowWritesChangeLatchOnly := by
  refine fun s c v hl => ⟨?_, ?_⟩
  · refine writeGives_of_ordinary hl (decode_wrTalo c · · v) (fun _ => rfl) (fun _ => rfl) fun addr => ?_
    rw [ordinary, State.written, writeLatchLo_eq]
    rfl
  · refine writeGives_of_ordinary hl (decode_wrTblo c · · v) (fun _ => rfl) (fun _ => rfl) fun addr => ?_
    rw [ordinary, State.written, writeLatchLo_eq]
    rfl

theorem written_chip_same (s : State) (c : Inst) (addr : Addr) (v : Byte) (f : Chip → Chip) :
    (s.written c addr v f).chip c = f ((s.chip c).emit (.shadow addr v)) :=
  leaving_chip_same ..

/-- Settles O51: the two timers of the record that the write leaves; the shadow event before it touches neither. -/
theorem lowLatchByteReplacesItsHalf : Obligations.LowLatchByteReplacesItsHalf := by
  refine fun s c m v hl => ⟨?_, ?_⟩
  · have hexec := exec_ordinary_inPage (i := .wrTalo c (s.regAddr c m 0x4) v) hl rfl (pageOf_regAddr s c m 0x4)
    refine ⟨_, decode_wrTalo c _ m v, hexec, ?_, ?_⟩ <;> rw [ordinary, written_chip_same] <;> rfl
  · have hexec := exec_ordinary_inPage (i := .wrTblo c (s.regAddr c m 0x6) v) hl rfl (pageOf_regAddr s c m 0x6)
    refine ⟨_, decode_wrTblo c _ m v, hexec, ?_, ?_⟩ <;> rw [ordinary, written_chip_same] <;> rfl

/-! ### The row of an offset -/

/-- Every offset has a read row on every instance (R181: "The sixteen cases are exhaustive"). -/
theorem exists_readRow (c : Inst) (k : BitVec 4) :
    ∃ r ∈ readRows, r.only.getD c = c ∧ opRows.find? (rowMatches c (0#5 ++ k)) = some r := by
  have found : (readRows.find? (rowMatches c (0#5 ++ k))).isSome := by
    revert k
    cases c <;> decide
  obtain ⟨r, hr⟩ := Option.isSome_iff_exists.1 found
  refine ⟨r, List.mem_of_find?_eq_some hr, ?_, by rw [opRows, List.find?_append, hr, Option.some_or]⟩
  have hmatch := List.find?_some hr
  simp only [rowMatches, Bool.and_eq_true, Bool.or_eq_true, beq_iff_eq] at hmatch
  obtain ⟨-, honly | honly⟩ := hmatch <;> rw [honly] <;> rfl

/-- Every offset has a write row. -/
theorem exists_writeRow (c : Inst) (k : BitVec 4) :
    ∃ r ∈ writeRows, opRows.find? (rowMatches c (0x10#5 ++ k)) = some r := by
  have found : (writeRows.find? (rowMatches c (0x10#5 ++ k))).isSome ∧
      (readRows.find? (rowMatches c (0x10#5 ++ k))).isNone := by
    revert k
    cases c <;> decide
  obtain ⟨r, hr⟩ := Option.isSome_iff_exists.1 found.1
  refine ⟨r, List.mem_of_find?_eq_some hr, ?_⟩
  rw [opRows, List.find?_append, hr, Option.isNone_iff_eq_none.1 found.2, Option.none_or]

/-! ### Reads: no read looks at its address -/

/-- The operation of a read row ignores the bus's data byte and does, on its instance, the same at every address. -/
theorem readRow_same {r : OpRow} (hr : r ∈ readRows) (c : Inst) :
    ∃ i : Addr → Instr, (∀ addr data, r.build c addr data = i addr) ∧ (∀ addr, instOf (i addr) = r.only.getD c) ∧
      (∀ addr, busAddr (i addr) = some addr) ∧ ∀ s addr addr', ordinary s (i addr) = ordinary s (i addr') := by
  simp only [readRows, List.mem_cons, List.not_mem_nil, or_false] at hr
  obtain rfl | rfl | rfl | rfl | rfl | rfl | rfl | rfl | rfl | rfl | rfl | rfl | rfl | rfl | rfl | rfl | rfl | rfl := hr
  all_goals exact ⟨_, fun _ _ => rfl, fun _ => rfl, fun _ => rfl, fun _ _ _ => rfl⟩

/-! ### Writes: only the shadow event tells the address -/

/-- The states `t` that a write of `v` answers at the addresses of a page are one state, but for the address in the shadow event with
which the write's own events begin (R183). -/
def OneButForShadow (s : State) (c : Inst) (v : Byte) (t : Addr → State) : Prop :=
  ∃ (u : State) (more : List Event), ∀ addr,
    t addr = u.setChip c { u.chip c with out := (s.chip c).out ++ Event.shadow addr v :: more }

/-- A write of the chip's own record, when its effect `f` carries an event on in the trace and adds the events `more` after it. -/
theorem oneButForShadow_written {s : State} {c : Inst} {v : Byte} {f : Chip → Chip} (more : List Event)
    (h : ∀ e, f ((s.chip c).emit e) = { f (s.chip c) with out := (s.chip c).out ++ e :: more }) :
    OneButForShadow s c v fun addr => s.written c addr v f := by
  refine ⟨s.leaving c (f (s.chip c)), more, fun addr => ?_⟩
  simp only [State.written, h, leaving_chip_same]
  cases c <;> rfl

/-- The serial register's write: under `SDR_WRITE_RAISES` the line's event follows when the serial source is enabled (R207). -/
theorem oneButForShadow_writeSdr (s : State) (c : Inst) (v : Byte) :
    OneButForShadow s c v fun addr => s.written c addr v (Chip.writeSdr s.cfg c v) := by
  refine oneButForShadow_written
    (if s.cfg.sdrWriteRaises && (s.chip c).enabled 0x08 then [lineEvent c true] else []) fun e => ?_
  rw [writeSdr_fields, writeSdr_fields, emit_out, List.append_assoc]
  rfl

/-- The mask write: the line's event follows when an enabled source is pending (41_interrupt_controller.md R142). -/
theorem oneButForShadow_writeMask (s : State) (c : Inst) (v : Byte) :
    OneButForShadow s c v fun addr => s.written c addr v (Chip.writeMask c v) := by
  refine oneButForShadow_written
    (if (s.chip c).pending &&& maskAfter (s.chip c).mask v &&& 0x1F = 0 then [] else [lineEvent c true]) fun e => ?_
  rw [writeMask_fields, writeMask_fields, emit_out, List.append_assoc]
  rfl

@[simp] theorem emit_pinsB (e : Event) (ch : Chip) : (ch.emit e).pinsB = ch.pinsB := rfl
@[simp] theorem emit_bankSelect (e : Event) (ch : Chip) : (ch.emit e).bankSelect = ch.bankSelect := rfl

/-- A write of port A or direction A that leaves the record as `ch`: on instance 2 the bank event follows (R192, R194, R197). -/
theorem oneButForShadow_afterPortA {s : State} {c : Inst} {ch : Chip} (v : Byte) (h : ch.out = (s.chip c).out) :
    OneButForShadow s c v fun addr => ((s.setChip c (ch.emit (.shadow addr v))).afterPortA c).noData := by
  cases c
  case one => exact ⟨s.leaving .one ch, [], fun addr => by rw [← h]; rfl⟩
  case two =>
    refine ⟨s.leaving .two ch, [.bank ch.bankSelect], fun addr => ?_⟩
    simp only [State.afterPortA, bankNotify_fields, setChip_two, emit_bankSelect, emit_out, h, List.append_assoc]
    rfl

/-- A write of port B or direction B that leaves the record as `ch`: on instance 1 the light-pen check follows (R193, R195, R196). -/
theorem oneButForShadow_afterPortB {s : State} {c : Inst} {ch : Chip} (v : Byte) (h : ch.out = (s.chip c).out) :
    OneButForShadow s c v fun addr => ((s.setChip c (ch.emit (.shadow addr v))).afterPortB c).noData := by
  cases c
  case one =>
    refine ⟨((s.setChip .one ch).lightPenCheck).noData,
      if lightPenTriggers s.cfg.lightPenEdge s.inst1.previousLightPenLine (ch.pinsB &&& 0x10) then [.lightPen] else [],
      fun addr => ?_⟩
    simp only [State.afterPortB, lightPenCheck_fields, setChip_one, emit_pinsB, emit_out, h, List.append_assoc]
    rfl
  case two => exact ⟨s.leaving .two ch, [], fun addr => by rw [← h]; rfl⟩

/-- The operation of a write row is, on its instance, one at every address but for the shadow event. -/
theorem writeRow_same {r : OpRow} (hr : r ∈ writeRows) (c : Inst) (v : Byte) :
    (∀ addr, instOf (r.build c addr v) = c) ∧ (∀ addr, busAddr (r.build c addr v) = some addr) ∧
      ∀ s, OneButForShadow s c v fun addr => ordinary s (r.build c addr v) := by
  simp only [writeRows, List.mem_cons, List.not_mem_nil, or_false] at hr
  obtain rfl | rfl | rfl | rfl | rfl | rfl | rfl | rfl | rfl | rfl | rfl | rfl | rfl | rfl | rfl | rfl := hr
  all_goals
    refine ⟨fun _ => rfl, fun _ => rfl, fun s => ?_⟩
    dsimp only [writeRow, ordinary]
  · exact oneButForShadow_afterPortA (ch := { s.chip c with portA := v }) v rfl
  · exact oneButForShadow_afterPortB (ch := { s.chip c with portB := v }) v rfl
  · exact oneButForShadow_afterPortA (ch := { s.chip c with directionA := v }) v rfl
  · exact oneButForShadow_afterPortB (ch := { s.chip c with directionB := v }) v rfl
  -- the four latch bytes, then the four bytes of the clock or the alarm
  iterate 4 exact oneButForShadow_written [] fun _ => rfl
  iterate 4 exact oneButForShadow_written [] fun _ => by rw [todWrite_fields, todWrite_fields]; rfl
  · exact oneButForShadow_writeSdr s c v
  · exact oneButForShadow_writeMask s c v
  -- the two control registers
  iterate 2 exact oneButForShadow_written [] fun _ => rfl

/-- Settles O27: the row of the offset names one operation for every mirror, which as a read is blind to its address (`readRow_same`) and
as a write shows it in the shadow event alone (`writeRow_same`). -/
theorem mirrorsAreOneRegister : Obligations.MirrorsAreOneRegister := by
  refine fun s c k hl => ⟨?_, fun v => ?_⟩
  · obtain ⟨r, hr, honly, hfind⟩ := exists_readRow c k
    obtain ⟨i, hbuild, hinst, haddr, hsame⟩ := readRow_same hr c
    have hdecode (page m data) : decode (.bus c page (readWord m k) data) = .ok (i (page ++ m ++ k)) := by
      rw [decode_readWord hfind, hbuild]
    have hc (addr) : instOf (i addr) = c := (hinst addr).trans honly
    exact ⟨i, ordinary s (i 0), readGives_of_ordinary hl hdecode hc haddr fun addr => hsame s addr 0⟩
  · obtain ⟨r, hr, hfind⟩ := exists_writeRow c k
    obtain ⟨hinst, haddr, hsame⟩ := writeRow_same hr c v
    obtain ⟨u, more, ht⟩ := hsame s
    exact ⟨r.build c, u, more, writeGives_of_ordinary hl (decode_writeWord hfind · · v) hinst haddr ht⟩

end Sys2Proof.Machine
end

section
/-! PROOFS. The codec (30_encoding.md R80 to R95): encoding and decoding undo each other, the decoder accepts the domain and nothing
else, and a step runs what the next request decodes to. -/

namespace Sys2Proof.Machine

/-! ### Decoding what was encoded -/

/-- The read request of an address that selects register `k` decodes by the read row of `k`. -/
theorem decode_readRequest {c : Inst} {a : Addr} {k : BitVec 4} {i : Addr → Instr}
    (hd : ∀ page m data, decode (.bus c page (readWord m k) data) = .ok (i (page ++ m ++ k))) (hk : (offsetOf a == k) = true) :
    decode (readRequest c a) = .ok (i a) := by
  obtain rfl : offsetOf a = k := by simpa using hk
  rw [readRequest_eq, hd, ← addr_parts a]

/-- The write request of an address that selects register `k` decodes by the write row of `k`. -/
theorem decode_writeRequest {c : Inst} {a : Addr} {v : Byte} {k : BitVec 4} {i : Addr → Byte → Instr}
    (hd : ∀ page m v, decode (.bus c page (writeWord m k) v) = .ok (i (page ++ m ++ k) v)) (hk : (offsetOf a == k) = true) :
    decode (writeRequest c a v) = .ok (i a v) := by
  obtain rfl : offsetOf a = k := by simpa using hk
  rw [writeRequest_eq, hd, ← addr_parts a]

theorem keyIndex_ofNat (r : Fin 8) : keyIndex (BitVec.ofNat 8 r.val) = some r := by
  revert r
  decide

theorem joystickNumber_joystickByte (n : Joystick) : joystickNumber (joystickByte n) = some n := by cases n <;> rfl

/-- Settles O3: a bus operation goes by the row of its offset, a host operation by its numbers. -/
theorem decodeEncodeRoundTrip : Obligations.DecodeEncodeRoundTrip := by
  intro i h
  cases i with
  | rdPra1 => exact decode_readRequest decode_rdPra1 h
  | rdPra2 => exact decode_readRequest decode_rdPra2 h
  | rdPrb1 => exact decode_readRequest decode_rdPrb1 h
  | rdPrb2 => exact decode_readRequest decode_rdPrb2 h
  | rdDdra c => exact decode_readRequest (decode_rdDdra c) h
  | rdDdrb c => exact decode_readRequest (decode_rdDdrb c) h
  | rdTalo c => exact decode_readRequest (decode_rdTalo c) h
  | rdTahi c => exact decode_readRequest (decode_rdTahi c) h
  | rdTblo c => exact decode_readRequest (decode_rdTblo c) h
  | rdTbhi c => exact decode_readRequest (decode_rdTbhi c) h
  | rdTod10 c => exact decode_readRequest (decode_rdTod10 c) h
  | rdTodsec c => exact decode_readRequest (decode_rdTodsec c) h
  | rdTodmin c => exact decode_readRequest (decode_rdTodmin c) h
  | rdTodhr c => exact decode_readRequest (decode_rdTodhr c) h
  | rdSdr c => exact decode_readRequest (decode_rdSdr c) h
  | rdIcr c => exact decode_readRequest (decode_rdIcr c) h
  | rdCra c => exact decode_readRequest (decode_rdCra c) h
  | rdCrb c => exact decode_readRequest (decode_rdCrb c) h
  | wrPra c => exact decode_writeRequest (decode_wrPra c) h
  | wrPrb c => exact decode_writeRequest (decode_wrPrb c) h
  | wrDdra c => exact decode_writeRequest (decode_wrDdra c) h
  | wrDdrb c => exact decode_writeRequest (decode_wrDdrb c) h
  | wrTalo c => exact decode_writeRequest (decode_wrTalo c) h
  | wrTahi c => exact decode_writeRequest (decode_wrTahi c) h
  | wrTblo c => exact decode_writeRequest (decode_wrTblo c) h
  | wrTbhi c => exact decode_writeRequest (decode_wrTbhi c) h
  | wrTod10 c => exact decode_writeRequest (decode_wrTod10 c) h
  | wrTodsec c => exact decode_writeRequest (decode_wrTodsec c) h
  | wrTodmin c => exact decode_writeRequest (decode_wrTodmin c) h
  | wrTodhr c => exact decode_writeRequest (decode_wrTodhr c) h
  | wrSdr c => exact decode_writeRequest (decode_wrSdr c) h
  | wrIcr c => exact decode_writeRequest (decode_wrIcr c) h
  | wrCra c => exact decode_writeRequest (decode_wrCra c) h
  | wrCrb c => exact decode_writeRequest (decode_wrCrb c) h
  | cycle | todTick | reset | hostSer => rfl
  | hostKey row column => simp only [encode, decode, keyIndex_ofNat]
  | hostJoy n => simp only [encode, decode, joystickNumber_joystickByte]

/-! ### Encoding what was decoded -/

/-- The operation of the read row of offset `k` is the read of an address with that offset, which it encodes to. -/
theorem readRow_encode {r : OpRow} (hr : r ∈ readRows) {c : Inst} (hc : r.only.getD c = c) (addr : Addr) (data : Byte) :
    encode (r.build c addr data) = readRequest c addr ∧
      ∃ k, (r.build c addr data).busOffset = some (addr, k) ∧ r.bits = 0#5 ++ k := by
  simp only [readRows, List.mem_cons, List.not_mem_nil, or_false] at hr
  obtain rfl | rfl | rfl | rfl | rfl | rfl | rfl | rfl | rfl | rfl | rfl | rfl | rfl | rfl | rfl | rfl | rfl | rfl := hr
  case inl | inr.inr.inl =>
    obtain rfl : Inst.one = c := hc
    exact ⟨rfl, _, rfl, rfl⟩
  case inr.inl | inr.inr.inr.inl =>
    obtain rfl : Inst.two = c := hc
    exact ⟨rfl, _, rfl, rfl⟩
  all_goals exact ⟨rfl, _, rfl, rfl⟩

/-- The operation of the write row of offset `k` is the write of an address with that offset, which it encodes to. -/
theorem writeRow_encode {r : OpRow} (hr : r ∈ writeRows) (c : Inst) (addr : Addr) (v : Byte) :
    encode (r.build c addr v) = writeRequest c addr v ∧
      ∃ k, (r.build c addr v).busOffset = some (addr, k) ∧ r.bits = 0x10#5 ++ k := by
  simp only [writeRows, List.mem_cons, List.not_mem_nil, or_false] at hr
  obtain rfl | rfl | rfl | rfl | rfl | rfl | rfl | rfl | rfl | rfl | rfl | rfl | rfl | rfl | rfl | rfl := hr
  all_goals exact ⟨rfl, _, rfl, rfl⟩

theorem wellFormed_of_busOffset {i : Instr} {addr : Addr} {k : BitVec 4} (h : i.busOffset = some (addr, k))
    (hk : offsetOf addr = k) : i.wellFormed = true := by
  simp only [Instr.wellFormed, h, hk, beq_self_eq_true]

/-- The bits of the row that a word finds are the word's own, mirror aside. -/
theorem bits_of_find {c : Inst} {word : OpWord} {r : OpRow} (h : opRows.find? (rowMatches c word) = some r) :
    word &&& 0x10F = r.bits := by
  have hmatch := List.find?_some h
  rw [rowMatches, Bool.and_eq_true, beq_iff_eq, opRows_mask r (List.mem_of_find?_eq_some h)] at hmatch
  exact hmatch.1

theorem readBits_inj {k k' : BitVec 4} : 0#5 ++ k &&& 0x10F = 0#5 ++ k' → k = k' := by
  revert k k'
  decide

theorem writeBits_inj {k k' : BitVec 4} : 0x10#5 ++ k &&& 0x10F = 0x10#5 ++ k' → k = k' := by
  revert k k'
  decide

/-- A read word and its page decode to a well-formed operation, which encodes to them with the data byte absent. -/
theorem decode_readWord_spec (c : Inst) (page : Byte) (m k : BitVec 4) (data : Byte) :
    ∃ i, decode (.bus c page (readWord m k) data) = .ok i ∧ i.wellFormed = true ∧ encode i = .bus c page (readWord m k) 0 := by
  obtain ⟨r, hr, honly, hfind⟩ := exists_readRow c k
  obtain ⟨hencode, k', hoffset, hbits⟩ := readRow_encode hr honly (page ++ m ++ k) data
  obtain ⟨hpage, hmirror, hk⟩ := parts_addr page m k
  obtain rfl := readBits_inj ((bits_of_find hfind).trans hbits)
  refine ⟨_, decode_readWord hfind page m data, wellFormed_of_busOffset hoffset hk, ?_⟩
  rw [hencode, readRequest_eq, hpage, hmirror, hk]

/-- A write word, its page and its byte decode to a well-formed operation, which encodes to them. -/
theorem decode_writeWord_spec (c : Inst) (page : Byte) (m k : BitVec 4) (v : Byte) :
    ∃ i, decode (.bus c page (writeWord m k) v) = .ok i ∧ i.wellFormed = true ∧ encode i = .bus c page (writeWord m k) v := by
  obtain ⟨r, hr, hfind⟩ := exists_writeRow c k
  obtain ⟨hencode, k', hoffset, hbits⟩ := writeRow_encode hr c (page ++ m ++ k) v
  obtain ⟨hpage, hmirror, hk⟩ := parts_addr page m k
  obtain rfl := writeBits_inj ((bits_of_find hfind).trans hbits)
  refine ⟨_, decode_writeWord hfind page m v, wellFormed_of_busOffset hoffset hk, ?_⟩
  rw [hencode, writeRequest_eq, hpage, hmirror, hk]

/-- Every bus access decodes, to a well-formed operation that encodes to it but for a read's data byte. -/
theorem decode_bus_spec (c : Inst) (page : Byte) (word : OpWord) (data : Byte) :
    ∃ i, decode (.bus c page word data) = .ok i ∧ i.wellFormed = true ∧
      (encode i = .bus c page word data ∨ word.getLsbD 8 = false ∧ encode i = .bus c page word 0) := by
  have hword := word_cases word
  cases hrw : word.getLsbD 8 <;> simp only [hrw, Bool.false_eq_true, if_false, if_true] at hword
  · obtain ⟨i, hi, hwf, hencode⟩ := decode_readWord_spec c page (word.extractLsb' 4 4) (word.extractLsb' 0 4) data
    rw [← hword] at hi hencode
    exact ⟨i, hi, hwf, .inr ⟨rfl, hencode⟩⟩
  · obtain ⟨i, hi, hwf, hencode⟩ := decode_writeWord_spec c page (word.extractLsb' 4 4) (word.extractLsb' 0 4) data
    rw [← hword] at hi hencode
    exact ⟨i, hi, hwf, .inl hencode⟩

theorem keyIndex_eq_some {v : Byte} {r : Fin 8} : keyIndex v = some r ↔ v = BitVec.ofNat 8 r.val := by
  constructor
  · intro h
    unfold keyIndex at h
    split at h
    · obtain rfl := Option.some.inj h
      simp
    · cases h
  · rintro rfl
    exact keyIndex_ofNat r

theorem joystickNumber_eq_some {v : Byte} {n : Joystick} : joystickNumber v = some n ↔ v = joystickByte n := by
  constructor
  · intro h
    unfold joystickNumber at h
    split at h
    · obtain rfl := Option.some.inj h
      assumption
    · split at h
      · obtain rfl := Option.some.inj h
        assumption
      · cases h
  · rintro rfl
    exact joystickNumber_joystickByte n

/-- The host key operation of a request on instance 1: both numbers are in range. -/
theorem decode_hostKey_eq_ok {row column : Byte} {pressed : Bool} {i : Instr} :
    decode (.hostKey .one row column pressed) = .ok i ↔
      ∃ r k : Fin 8, row = BitVec.ofNat 8 r.val ∧ column = BitVec.ofNat 8 k.val ∧ i = .hostKey r k pressed := by
  simp only [← keyIndex_eq_some, decode]
  cases keyIndex row <;> cases keyIndex column <;> simp [eq_comm]

/-- The joystick operation of a request on instance 1: the number is 1 or 2. -/
theorem decode_hostJoy_eq_ok {n v : Byte} {i : Instr} :
    decode (.hostJoy .one n v) = .ok i ↔ ∃ j : Joystick, n = joystickByte j ∧ i = .hostJoy j v := by
  simp only [← joystickNumber_eq_some, decode]
  cases joystickNumber n <;> simp [eq_comm]

/-- Settles O4: request by request; the bus accesses are `decode_bus_spec`. -/
theorem encodeDecodeRoundTrip : Obligations.EncodeDecodeRoundTrip := by
  intro r i h
  cases r with
  | bus c page word data =>
    obtain ⟨j, hj, hwf, hencode⟩ := decode_bus_spec c page word data
    obtain rfl : j = i := Except.ok.inj (hj.symm.trans h)
    exact ⟨hwf, hencode.imp_right fun ⟨hrw, hzero⟩ => ⟨c, page, word, data, rfl, hrw, hzero⟩⟩
  | cycle | todTick | reset =>
    obtain rfl := Except.ok.inj h
    exact ⟨rfl, .inl rfl⟩
  | hostKey c row column pressed =>
    cases c with
    | one =>
      obtain ⟨r, k, rfl, rfl, rfl⟩ := decode_hostKey_eq_ok.1 h
      exact ⟨rfl, .inl rfl⟩
    | two => cases h
  | hostJoy c n v =>
    cases c with
    | one =>
      obtain ⟨j, rfl, rfl⟩ := decode_hostJoy_eq_ok.1 h
      exact ⟨rfl, .inl rfl⟩
    | two => cases h
  | hostSer c v =>
    cases c with
    | one => cases h
    | two =>
      obtain rfl := Except.ok.inj h
      exact ⟨rfl, .inl rfl⟩

/-! ### The domain -/

/-- A byte is a row or column number exactly when it is below 8 (R92). -/
theorem exists_eq_ofNat_iff (v : Byte) : (∃ r : Fin 8, v = BitVec.ofNat 8 r.val) ↔ v.toNat < 8 := by
  constructor
  · rintro ⟨r, rfl⟩
    have := r.isLt
    rw [BitVec.toNat_ofNat]
    omega
  · exact fun h => ⟨⟨v.toNat, h⟩, by simp⟩

/-- A byte is a joystick number exactly when it is 1 or 2 (R92). -/
theorem exists_eq_joystickByte_iff (v : Byte) : (∃ j, v = joystickByte j) ↔ v = 1 ∨ v = 2 := by
  constructor
  · rintro ⟨_ | _, h⟩
    · exact .inl h
    · exact .inr h
  · rintro (h | h)
    · exact ⟨.one, h⟩
    · exact ⟨.two, h⟩

/-- Settles O5: request by request, host operations by the instance they are put on. -/
theorem decodeAcceptsExactlyTheDomain : Obligations.DecodeAcceptsExactlyTheDomain := by
  intro r
  cases r with
  | bus c page word data =>
    obtain ⟨i, hi, -⟩ := decode_bus_spec c page word data
    exact ⟨fun _ => trivial, fun _ => ⟨i, hi⟩⟩
  | cycle | todTick | reset => exact ⟨fun _ => trivial, fun _ => ⟨_, rfl⟩⟩
  | hostKey c row column pressed =>
    cases c with
    | one =>
      simp only [decode_hostKey_eq_ok, inDomain, ← exists_eq_ofNat_iff, true_and]
      exact ⟨fun ⟨_, r, k, hr, hk, _⟩ => ⟨⟨r, hr⟩, k, hk⟩, fun ⟨⟨r, hr⟩, k, hk⟩ => ⟨_, r, k, hr, hk, rfl⟩⟩
    | two => exact ⟨fun ⟨_, h⟩ => (nomatch h), fun h => nomatch h.1⟩
  | hostJoy c n v =>
    cases c with
    | one =>
      simp only [decode_hostJoy_eq_ok, inDomain, ← exists_eq_joystickByte_iff, true_and]
      exact ⟨fun ⟨_, j, hj, _⟩ => ⟨j, hj⟩, fun ⟨j, hj⟩ => ⟨_, j, hj, rfl⟩⟩
    | two => exact ⟨fun ⟨_, h⟩ => (nomatch h), fun h => nomatch h.1⟩
  | hostSer c v =>
    cases c with
    | one => exact ⟨fun ⟨_, h⟩ => (nomatch h), fun h => nomatch h⟩
    | two => exact ⟨fun _ => rfl, fun _ => ⟨_, rfl⟩⟩

/-- Settles O6: the words' rows, found by evaluation. -/
theorem specWordsDecode : Obligations.SpecWordsDecode :=
  ⟨rfl, rfl, rfl, rfl, rfl, rfl, rfl, rfl, rfl, rfl⟩

/-! ### The step -/

theorem step_empty {s : State} (h : s.inbox = []) : step s = .next s := by
  simp only [step, h]

theorem step_decoded {s : State} {r : Request} {rest : List Request} {i : Instr} (h : s.inbox = r :: rest)
    (hd : decode r = .ok i) : step s = exec i { s with inbox := rest } := by
  simp only [step, h, hd]

theorem step_undecodable {s : State} {r : Request} {rest : List Request} {e : DecodeError} (h : s.inbox = r :: rest)
    (hd : decode r = .error e) : step s = .refused (.undecodable e) := by
  simp only [step, h, hd]

/-- Settles O1: the step's own equation for a request that decodes. -/
theorem stepRunsDecodedOperation : Obligations.StepRunsDecodedOperation :=
  fun _ _ _ _ h hd _ => step_decoded h hd

/-- Settles O2: the step's equations for an empty inbox and for a request turned away. -/
theorem stepWithoutOperation : Obligations.StepWithoutOperation :=
  ⟨fun _ h => step_empty h, fun _ _ _ _ h hd => step_undecodable h hd⟩

end Sys2Proof.Machine
end

section
/-! PROOFS. The chip cycle (44_chip_cycle.md): what it touches, what it makes of either timer, and what the timers that fire make of
`pending`, the line and the trace. -/

namespace Sys2Proof.Machine

/-! ### The operation -/

/-- A pin event of a live instance has no page to miss. -/
theorem exec_pin {i : Instr} {s : State} (hl : s.live (instOf i)) (h : busAddr i = none) : exec i s = .next (ordinary s i) :=
  exec_ordinary hl fun _ ha => by rw [h] at ha; cases ha

/-- A cycle of a live instance. -/
theorem exec_cycle {s : State} {c : Inst} (hl : s.live c) :
    exec (.cycle c) s = .next (s.leaving c ((s.chip c).cycle s.cfg c)) :=
  exec_pin (i := .cycle c) hl rfl

/-- The record that a cycle of a live instance leaves. -/
theorem chip_of_exec_cycle {s t : State} {c : Inst} (hl : s.live c) (h : exec (.cycle c) s = .next t) :
    t.chip c = (s.chip c).cycle s.cfg c := by
  rw [exec_cycle hl] at h
  injection h with h
  rw [← h, leaving_chip_same]

/-- The fields a cycle does not write. -/
theorem cycle_frame (cfg : Config) (c : Inst) (ch : Chip) :
    ch.cycle cfg c =
      { ch with
        timerA := (ch.cycle cfg c).timerA, timerB := (ch.cycle cfg c).timerB, pending := (ch.cycle cfg c).pending,
        intLine := (ch.cycle cfg c).intLine, out := (ch.cycle cfg c).out } := by
  simp only [Chip.cycle, Chip.processIrq, deliverB_eq, deliverA_eq, Chip.update]

/-- Settles O28: the cycle's frame. -/
theorem cycleTouchesTimersAndInterruptOnly : Obligations.CycleTouchesTimersAndInterruptOnly :=
  fun s c hl => ⟨_, exec_cycle hl, cycle_frame s.cfg c (s.chip c)⟩

/-! ### The timers -/

/-- A cycle with nothing staged is the state action alone. -/
theorem cycle_timer_unstaged {cfg : Config} {c : Inst} {ch : Chip} {w : Which} (h : (ch.timer w).pendingValid = false) :
    (ch.cycle cfg c).timer w =
      actedTimer cfg.countStopUnderflow (inputActive w (ch.timer w) (ch.cycle cfg c)) (ch.timer w) := by
  obtain ⟨-, hvalid, -, -⟩ :=
    actedTimer_frame cfg.countStopUnderflow (inputActive w (ch.timer w) (ch.cycle cfg c)) (ch.timer w)
  rw [cycle_timer, idleStep_invalid cfg (hvalid.trans h)]

/-- Settles O29: with nothing staged the idle step does nothing. -/
theorem timersFollowStateTable : Obligations.TimersFollowStateTable := by
  intro s t c w hl h hstaged
  rw [chip_of_exec_cycle hl h]
  exact cycle_timer_unstaged hstaged

/-- Settles O30: the state action keeps the staged byte, which the idle step then applies. -/
theorem stagedWriteAppliesAtCycleEnd : Obligations.StagedWriteAppliesAtCycleEnd := by
  intro s t c w hl h htable hkeeps hstaged
  rw [chip_of_exec_cycle hl h, cycle_timer]
  obtain ⟨-, hvalid, -, -⟩ := actedTimer_frame s.cfg.countStopUnderflow
    (inputActive w ((s.chip c).timer w) ((s.chip c).cycle s.cfg c)) ((s.chip c).timer w)
  exact idleStep_default (hvalid.trans hstaged) htable hkeeps

/-! ### Interrupts of a cycle -/

/-- Whether a timer fires in the cycle of a chip. -/
def Chip.firesInCycle (cfg : Config) (c : Inst) (ch : Chip) (w : Which) : Bool :=
  firesNow cfg.countStopUnderflow (inputActive w (ch.timer w) (ch.cycle cfg c)) (ch.timer w)

/-- The first half of a cycle sets a source bit and a delivery flag for each timer that fires, and touches neither mask, line nor trace
(44_chip_cycle.md R231). -/
theorem update_interrupts (cfg : Config) (c : Inst) (ch : Chip) :
    (ch.update cfg).pending =
        ch.pending ||| (if ch.firesInCycle cfg c .a then 0x01 else 0) ||| (if ch.firesInCycle cfg c .b then 0x02 else 0) ∧
    (ch.update cfg).timerA.interruptPendingNextCycle =
        (ch.timerA.interruptPendingNextCycle || ch.firesInCycle cfg c .a) ∧
    (ch.update cfg).timerB.interruptPendingNextCycle =
        (ch.timerB.interruptPendingNextCycle || ch.firesInCycle cfg c .b) := by
  have underflow : (ch.cycle cfg c).timerA.underflowedThisCycle =
      (TimerView.step cfg srcTimerA false ⟨ch.timerA, ch.pending⟩).timer.underflowedThisCycle := by
    rw [(cycle_timers cfg c ch).1]
  have flag (t : Timer) : (t.idleStep cfg).interruptPendingNextCycle = t.interruptPendingNextCycle := by
    obtain ⟨-, -, -, -, -, -, h⟩ := idleStep_frame cfg t
    exact h
  simp only [Chip.update, Chip.firesInCycle, inputActive, Chip.timer, underflow]
  refine ⟨?_, ?_, ?_⟩
  · rw [step_eq cfg srcTimerB, step_eq cfg srcTimerA]
    simp only [countInputActive_false]
    rfl
  · rw [step_eq, flag, countInputActive_false]
  · rw [step_eq cfg srcTimerB, flag]
    rfl

/-- Delivering a flag: its source bit, and the summary bit when the source is enabled. -/
theorem delivered_pending (p src : Byte) (flag enabled : Bool) :
    (if flag then if enabled then (p ||| src) ||| 0x80 else p ||| src else p) =
      p ||| (if flag then src else 0) ||| (if flag && enabled then 0x80 else 0) := by
  cases flag <;> cases enabled <;> simp

/-- Whether timer A's interrupt is delivered with the line in a cycle (44_chip_cycle.md R232). -/
def Chip.tellsA (cfg : Config) (c : Inst) (ch : Chip) : Bool := ch.firesInCycle cfg c .a && ch.enabled 0x01

/-- Whether timer B's is, which `TIMER_B_DELIVERY` must allow. -/
def Chip.tellsB (cfg : Config) (c : Inst) (ch : Chip) : Bool :=
  cfg.timerBDelivery && ch.firesInCycle cfg c .b && ch.enabled 0x02

/-- What a cycle of a chip without delivery flags left over makes of `pending`, the line and the trace. -/
theorem cycle_interrupts {cfg : Config} {ch : Chip} (c : Inst) (hA : ch.timerA.interruptPendingNextCycle = false)
    (hB : ch.timerB.interruptPendingNextCycle = false) :
    (ch.cycle cfg c).pending =
        ch.pending ||| (if ch.firesInCycle cfg c .a then 0x01 else 0) ||| (if ch.firesInCycle cfg c .b then 0x02 else 0)
          ||| (if ch.tellsA cfg c || ch.tellsB cfg c then 0x80 else 0) ∧
    (ch.cycle cfg c).intLine = (ch.intLine || ch.tellsA cfg c || ch.tellsB cfg c) ∧
    (ch.cycle cfg c).out = ch.out ++ (if ch.tellsA cfg c then [lineEvent c true] else [])
      ++ (if ch.tellsB cfg c then [lineEvent c true] else []) := by
  obtain ⟨hpending, hflagA, hflagB⟩ := update_interrupts cfg c ch
  rw [hA, Bool.false_or] at hflagA
  rw [hB, Bool.false_or] at hflagB
  have htellsB : (ch.firesInCycle cfg c .b && cfg.timerBDelivery && ch.enabled 0x02) = ch.tellsB cfg c := by
    rw [Chip.tellsB, Bool.and_comm cfg.timerBDelivery]
  have henabled (t : Timer) (p m : Byte) (l : Bool) (o : List Event) :
      Chip.enabled { ch.update cfg with timerA := t, pending := p, intLine := l, out := o } m = ch.enabled m := rfl
  simp only [Chip.cycle, Chip.processIrq, deliverB_eq, deliverA_eq, henabled, hpending, hflagA, hflagB, htellsB]
  refine ⟨?_, rfl, rfl⟩
  rw [delivered_pending, delivered_pending, htellsB, ← Chip.tellsA]
  have honce : (if ch.firesInCycle cfg c .b then 0x02 else 0 : Byte) |||
      (if ch.firesInCycle cfg c .b && cfg.timerBDelivery then 0x02 else 0) =
        if ch.firesInCycle cfg c .b then 0x02 else 0 := by
    cases ch.firesInCycle cfg c .b <;> cases cfg.timerBDelivery <;> rfl
  have hsummary : (if ch.tellsA cfg c then 0x80 else 0 : Byte) ||| (if ch.tellsB cfg c then 0x80 else 0) =
      if ch.tellsA cfg c || ch.tellsB cfg c then 0x80 else 0 := by
    cases ch.tellsA cfg c <;> cases ch.tellsB cfg c <;> rfl
  generalize (if ch.firesInCycle cfg c .a then 0x01 else 0 : Byte) = a
  generalize (if ch.firesInCycle cfg c .b then 0x02 else 0 : Byte) = b at honce ⊢
  generalize (if ch.firesInCycle cfg c .b && cfg.timerBDelivery then 0x02 else 0 : Byte) = b' at honce ⊢
  generalize (if ch.tellsA cfg c then 0x80 else 0 : Byte) = summaryA at hsummary ⊢
  calc ch.pending ||| a ||| b ||| a ||| summaryA ||| b' ||| (if ch.tellsB cfg c then 0x80 else 0)
      = ch.pending ||| (a ||| a) ||| (b ||| b') ||| (summaryA ||| (if ch.tellsB cfg c then 0x80 else 0)) := by ac_rfl
    _ = _ := by rw [BitVec.or_self, honce, hsummary]

/-- The mask bit of one source. -/
theorem enabled_bit (ch : Chip) (i : Nat) (hi : i < 8) : ch.enabled (BitVec.twoPow 8 i) = ch.mask.getLsbD i := by
  have htwo : BitVec.twoPow 8 i ≠ 0 := fun h => by simpa [hi] using congrArg (·.getLsbD i) h
  rw [Chip.enabled, BitVec.and_twoPow]
  cases ch.mask.getLsbD i
  · rfl
  · exact bne_iff_ne.2 htwo

/-- Settles O31: the interrupts of a cycle, with the mask bits by number. -/
theorem firedTimersRaiseAndDeliver : Obligations.FiredTimersRaiseAndDeliver := by
  intro s t c firesA firesB hl h hA hB hfA hfB
  rw [chip_of_exec_cycle hl h] at hfA hfB ⊢
  have henabledA : (s.chip c).enabled 0x01 = (s.chip c).mask.getLsbD 0 := enabled_bit _ 0 (by omega)
  have henabledB : (s.chip c).enabled 0x02 = (s.chip c).mask.getLsbD 1 := enabled_bit _ 1 (by omega)
  have hcycle := cycle_interrupts (cfg := s.cfg) c hA hB
  rw [Chip.tellsA, Chip.tellsB, henabledA, henabledB, show (s.chip c).firesInCycle s.cfg c .a = firesA from hfA.symm,
    show (s.chip c).firesInCycle s.cfg c .b = firesB from hfB.symm] at hcycle
  exact hcycle

end Sys2Proof.Machine
end

section
/-! PROOFS. The timing laws of a timer (40_timer.md R119 to R121, 70_reset_and_hazards.md R284), read off the state table of one cycle. -/

namespace Sys2Proof.Machine

/-! ### Sequences of operations -/

theorem runOps_singleton {i : Instr} {s t : State} (h : exec i s = .next t) : runOps [i] s = .next t := by
  simp only [runOps, h]

theorem runOps_cons {i : Instr} {rest : List Instr} {s t : State} (h : exec i s = .next t) :
    runOps (i :: rest) s = runOps rest t := by
  simp only [runOps, h]

/-- One cycle of a live instance: it stays live, keeps its parameters, and its record is the cycle of the one before. -/
theorem exists_cycle {s : State} {c : Inst} (hl : s.live c) :
    ∃ t, exec (.cycle c) s = .next t ∧ t.live c ∧ t.cfg = s.cfg ∧ t.chip c = (s.chip c).cycle s.cfg c := by
  refine ⟨_, exec_cycle hl, ?_, leaving_cfg .., leaving_chip_same ..⟩
  rw [State.live, leaving_chip_same, cycle_fatal]
  exact hl

/-! ### The state table, row by row -/

/-- `Count` and `CountStop`: the states in which a timer counts its input. -/
def counting (t : Timer) : Prop := t.state = .count ∨ t.state = .countStop

section
variable {opt : CountStopUnderflow} {t : Timer}

theorem firedTimer_value (t : Timer) : (firedTimer t).value = t.latch := by unfold firedTimer; split <;> rfl

/-- No active input: a counting timer keeps its value. -/
theorem actedTimer_inactive (h : counting t) :
    (actedTimer opt false t).value = t.value ∧ (actedTimer opt false t).underflowedThisCycle = false := by
  rcases h with h | h <;> simp [actedTimer, h]

/-- An active input away from 0 and 1: a counting timer decrements. -/
theorem actedTimer_decrements (h : counting t) (h0 : t.value ≠ 0) (h1 : t.value ≠ 1) :
    (actedTimer opt true t).value = t.value - 1 ∧ (actedTimer opt true t).underflowedThisCycle = false := by
  have hne : ¬ (t.value = 0 ∨ t.value = 1) := fun h => h.elim h0 h1
  rcases h with h | h <;> simp only [actedTimer, h, hne, Bool.true_eq_false, if_false, and_self]

/-- An active input at 0 or 1: a counting timer underflows. -/
theorem actedTimer_underflows (h : counting t) (hv : t.value = 0 ∨ t.value = 1) :
    (actedTimer opt true t).underflowedThisCycle = true := by
  rcases h with h | h
  · simp only [actedTimer, h, hv, Bool.true_eq_false, if_false, if_true]
  · simp only [actedTimer, h, hv, Bool.true_eq_false, if_false, if_true]
    cases opt <;> rfl

/-- In any other state nothing is counted. -/
theorem actedTimer_not_counting (active : Bool) (h : ¬ counting t) :
    ((actedTimer opt active t).value = t.value ∨ (actedTimer opt active t).value = t.latch) ∧
      (actedTimer opt active t).underflowedThisCycle = false := by
  cases hs : t.state
  case count => exact absurd (.inl hs) h
  case countStop => exact absurd (.inr hs) h
  case stop | waitCount => simp only [actedTimer, hs, true_or, and_self]
  case loadStop | loadCount => simp only [actedTimer, hs, or_true, and_self]
  case loadWaitCount =>
    simp only [actedTimer, hs]
    split
    · obtain ⟨-, -, -, -, hflag⟩ := firedTimer_frame { t with underflowedThisCycle := false, interruptPendingNextCycle := false }
      exact ⟨.inr (firedTimer_value _), hflag⟩
    · exact ⟨.inr rfl, rfl⟩

end

theorem inputActive_of_system {t : Timer} (w : Which) (after : Chip) (h : t.countsSystemClock = true) :
    inputActive w t after = true := by
  cases w <;> simp only [inputActive, h, Bool.true_or]

/-- A cycle of a timer that counts Phi2. -/
theorem cycle_timer_system {cfg : Config} {c : Inst} {ch : Chip} {w : Which} (h : (ch.timer w).countsSystemClock = true) :
    (ch.cycle cfg c).timer w = (actedTimer cfg.countStopUnderflow true (ch.timer w)).idleStep cfg := by
  rw [cycle_timer, inputActive_of_system w _ h]

/-- The same with nothing staged. -/
theorem cycle_timer_free {cfg : Config} {c : Inst} {ch : Chip} {w : Which} (h : (ch.timer w).countsSystemClock = true)
    (hstaged : (ch.timer w).pendingValid = false) :
    (ch.cycle cfg c).timer w = actedTimer cfg.countStopUnderflow true (ch.timer w) := by
  rw [cycle_timer_unstaged hstaged, inputActive_of_system w _ h]

/-- The state that the idle step gives a timer under the default table. -/
theorem idleStep_state {t : Timer} {cfg : Config} (ht : cfg.idleTable = defaultIdleTable) (hv : t.pendingValid = true) :
    (t.idleStep cfg).state =
      (idleByHand t.state (t.pendingControl.getLsbD 0) (t.pendingControl.getLsbD 4) (t.pendingControl.getLsbD 3)).1 := by
  simp only [Timer.idleStep, hv, if_true, ht, idleLookup_default]

/-! ### Start and stop latency (R119) -/

/-- A control write in page leaves a live instance whose timer A has the byte staged. -/
theorem exists_wrCra {s : State} {c : Inst} {addr : Addr} (v : Byte) (hl : s.live c) (hp : pageOf addr = s.pageByte c) :
    ∃ t, exec (.wrCra c addr v) s = .next t ∧ t.live c ∧ t.cfg = s.cfg ∧
      (t.chip c).timerA = (s.chip c).timerA.writeControlA v := by
  refine ⟨_, exec_ordinary_inPage (i := .wrCra c addr v) hl rfl hp, ?_, leaving_cfg .., ?_⟩
  · exact (ordinary_fatal s (.wrCra c addr v) c).trans hl
  · rw [ordinary, written_chip_same]
    rfl

/-- The cycle that follows a control write with the force-load bit clear on a timer A counting Phi2: the state action, then the table's
row for the run bit; nothing stays staged. -/
theorem cycle_after_writeControlA {cfg : Config} {c : Inst} {ch : Chip} {t : Timer} {v : Byte}
    (htable : cfg.idleTable = defaultIdleTable) (h4 : v.getLsbD 4 = false) (h5 : v.getLsbD 5 = false)
    (hA : ch.timerA = t.writeControlA v) (hs : t.state = .stop ∨ t.state = .count ∧ t.value ≠ 0 ∧ t.value ≠ 1) :
    (ch.cycle cfg c).timerA.countsSystemClock = true ∧ (ch.cycle cfg c).timerA.pendingValid = false ∧
      (ch.cycle cfg c).timerA.state = (idleByHand t.state (v.getLsbD 0) false (v.getLsbD 3)).1 ∧
      (ch.cycle cfg c).timerA.value = if t.state = .count then t.value - 1 else t.value := by
  have hclock : (t.writeControlA v).countsSystemClock = true := by
    show (!inModeA v) = true
    rw [inModeA, inModeAPos, h5]
    rfl
  have hcycle : (ch.cycle cfg c).timerA = (actedTimer cfg.countStopUnderflow true (t.writeControlA v)).idleStep cfg := by
    rw [← hA]
    exact cycle_timer_system (w := .a) (by rw [Chip.timer, hA]; exact hclock)
  have hacted : actedTimer cfg.countStopUnderflow true (t.writeControlA v) =
      { t.writeControlA v with
        value := if t.state = .count then t.value - 1 else t.value
        underflowedThisCycle := false, interruptPendingNextCycle := false } := by
    have hstate : (t.writeControlA v).state = t.state := rfl
    have hvalue : (t.writeControlA v).value = t.value := rfl
    rcases hs with hs | ⟨hs, h0, h1⟩
    · simp only [actedTimer, hstate, hs, ← hvalue]
      rfl
    · have hne : ¬ (t.value = 0 ∨ t.value = 1) := fun h => h.elim h0 h1
      simp only [actedTimer, hstate, hs, hvalue, hne, Bool.true_eq_false, if_true, if_false]
  obtain ⟨hvalue, -, hvalid, hsystem, -, -, -⟩ := idleStep_frame cfg (actedTimer cfg.countStopUnderflow true (t.writeControlA v))
  rw [hcycle]
  refine ⟨?_, hvalid, ?_, ?_⟩
  · rw [hsystem, hacted]
    exact hclock
  · rw [idleStep_state htable (by rw [hacted]; rfl), hacted, ← h4]
    rfl
  · rw [hvalue, hacted]

/-- The two cycles after a start: `WaitCount`, then `Count` with its value, then the first decrement. -/
theorem actedTimer_waitCount_count (opt : CountStopUnderflow) {t : Timer} (hs : t.state = .waitCount) (h0 : t.value ≠ 0)
    (h1 : t.value ≠ 1) :
    (actedTimer opt true t).state = .count ∧ (actedTimer opt true t).value = t.value ∧
      (actedTimer opt true (actedTimer opt true t)).state = .count ∧
      (actedTimer opt true (actedTimer opt true t)).value = t.value - 1 := by
  have hne : ¬ (t.value = 0 ∨ t.value = 1) := fun h => h.elim h0 h1
  simp only [actedTimer, hs, hne, Bool.true_eq_false, if_false, and_self]

/-- The two cycles after a stop: `CountStop` decrements into `Stop`, where the value stands. -/
theorem actedTimer_countStop_stop (opt : CountStopUnderflow) {t : Timer} (hs : t.state = .countStop) (h0 : t.value ≠ 0)
    (h1 : t.value ≠ 1) :
    (actedTimer opt true t).state = .stop ∧ (actedTimer opt true t).value = t.value - 1 ∧
      (actedTimer opt true (actedTimer opt true t)).state = .stop ∧
      (actedTimer opt true (actedTimer opt true t)).value = t.value - 1 := by
  have hne : ¬ (t.value = 0 ∨ t.value = 1) := fun h => h.elim h0 h1
  simp only [actedTimer, hs, hne, Bool.true_eq_false, if_false, and_self]

/-- Two cycles of a live instance whose timer A counts Phi2 with nothing staged. -/
theorem exists_two_cycles {s : State} {c : Inst} (hl : s.live c) (hclock : (s.chip c).timerA.countsSystemClock = true)
    (hstaged : (s.chip c).timerA.pendingValid = false) :
    ∃ t u, runOps [.cycle c] s = .next t ∧ runOps [.cycle c] t = .next u ∧
      (t.chip c).timerA = actedTimer s.cfg.countStopUnderflow true (s.chip c).timerA ∧
      (u.chip c).timerA = actedTimer s.cfg.countStopUnderflow true (t.chip c).timerA := by
  obtain ⟨t, ht, hlt, hcfg, hchip⟩ := exists_cycle hl
  obtain ⟨u, hu, -, -, hchip'⟩ := exists_cycle hlt
  have hfirst : (t.chip c).timerA = actedTimer s.cfg.countStopUnderflow true (s.chip c).timerA :=
    hchip ▸ cycle_timer_free (w := .a) hclock hstaged
  obtain ⟨-, hvalid, hsystem, -⟩ := actedTimer_frame s.cfg.countStopUnderflow true (s.chip c).timerA
  refine ⟨t, u, runOps_singleton ht, runOps_singleton hu, hfirst, ?_⟩
  rw [hchip', ← hcfg]
  exact cycle_timer_free (w := .a) ((congrArg Timer.countsSystemClock hfirst).trans (hsystem.trans hclock))
    ((congrArg Timer.pendingValid hfirst).trans (hvalid.trans hstaged))

/-- Settles O32: the cycle that applies the staged byte, then two with nothing staged. -/
theorem controlWriteLatency : Obligations.ControlWriteLatency := by
  intro s c addr v hl hp htable h4 h5
  obtain ⟨w, hw, hlw, hcfgw, hA⟩ := exists_wrCra v hl hp
  obtain ⟨t1, ht1, hl1, -, hchip1⟩ := exists_cycle hlw
  have hrun1 : runOps [.wrCra c addr v, .cycle c] s = .next t1 := (runOps_cons hw).trans (runOps_singleton ht1)
  have first := cycle_after_writeControlA (c := c) (hcfgw ▸ htable) h4 h5 hA
  rw [← hchip1] at first
  refine ⟨fun hstop hrun h0 h1 => ?_, fun hcount hrun h2 => ?_⟩
  · obtain ⟨hclock, hvalid, hstate, hvalue⟩ := first (.inl hstop)
    rw [hstop, hrun] at hstate
    rw [hstop, if_neg (by simp)] at hvalue
    obtain ⟨t2, t3, hrun2, hrun3, hA2, hA3⟩ := exists_two_cycles hl1 hclock hvalid
    refine ⟨t1, t2, t3, hrun1, hrun2, hrun3, hstate, hvalue, ?_⟩
    rw [hA3, hA2, ← hvalue]
    exact actedTimer_waitCount_count _ hstate (hvalue ▸ h0) (hvalue ▸ h1)
  · obtain ⟨hclock, hvalid, hstate, hvalue⟩ := first (.inr ⟨hcount, by bv_omega, by bv_omega⟩)
    rw [hcount, hrun] at hstate
    rw [if_pos hcount] at hvalue
    obtain ⟨t2, t3, hrun2, hrun3, hA2, hA3⟩ := exists_two_cycles hl1 hclock hvalid
    refine ⟨t1, t2, t3, hrun1, hrun2, hrun3, hstate, hvalue, ?_⟩
    have htwo : (s.chip c).timerA.value - 2 = (t1.chip c).timerA.value - 1 := by
      rw [hvalue]
      bv_omega
    rw [hA3, hA2, htwo]
    refine actedTimer_countStop_stop _ hstate ?_ ?_ <;> rw [hvalue] <;> bv_omega

/-! ### The period (R120) -/

/-- A timer in `Count` that has counted `n` down from its latch, without an underflow in the last cycle. -/
def countedDown (t : Timer) (n : Nat) : Timer :=
  { t with
    value := t.latch - BitVec.ofNat 16 n, state := .count, underflowedThisCycle := false, interruptPendingNextCycle := false }

theorem actedTimer_loadCount (opt : CountStopUnderflow) {t : Timer} (hs : t.state = .loadCount) :
    actedTimer opt true t = countedDown t 0 := by
  simp only [actedTimer, hs, countedDown]
  simp

theorem countedDown_value (t : Timer) {n : Nat} (h : n ≤ t.latch.toNat) :
    (countedDown t n).value.toNat = t.latch.toNat - n := by
  have := t.latch.isLt
  simp only [countedDown]
  bv_omega

/-- While more than 1 is left, a cycle counts on. -/
theorem actedTimer_countedDown (opt : CountStopUnderflow) (t : Timer) {n : Nat} (h : n + 1 < t.latch.toNat) :
    actedTimer opt true (countedDown t n) = countedDown t (n + 1) := by
  have hvalue := countedDown_value t (n := n) (by omega)
  have hne : ¬ ((countedDown t n).value = 0 ∨ (countedDown t n).value = 1) := by bv_omega
  have hnext : t.latch - BitVec.ofNat 16 n - 1 = t.latch - BitVec.ofNat 16 (n + 1) := by bv_omega
  have hstate : (countedDown t n).state = .count := rfl
  simp only [actedTimer, hstate, hne, Bool.true_eq_false, if_false]
  simp only [countedDown, hnext]

/-- With at most 1 left, a cycle of a timer that is not one-shot underflows and reloads. -/
theorem actedTimer_countedDown_last (opt : CountStopUnderflow) {t : Timer} {n : Nat} (hone : t.control.getLsbD 3 = false)
    (hn : n ≤ t.latch.toNat) (hlast : t.latch.toNat ≤ n + 1) :
    actedTimer opt true (countedDown t n) =
      { t with value := t.latch, state := .loadCount, underflowedThisCycle := true, interruptPendingNextCycle := false } := by
  have hvalue := countedDown_value t hn
  have hlow : (countedDown t n).value = 0 ∨ (countedDown t n).value = 1 := by bv_omega
  have hstate : (countedDown t n).state = .count := rfl
  simp only [actedTimer, hstate, hlow, Bool.true_eq_false, if_true, if_false, firedTimer]
  simp only [countedDown, hone, Bool.false_eq_true, if_false]

/-- The cycles of a free run after the first count down from the latch. -/
theorem iterate_actedTimer (opt : CountStopUnderflow) {t : Timer} (hs : t.state = .loadCount) {n : Nat}
    (h : n = 0 ∨ n < t.latch.toNat) : (actedTimer opt true)^[n + 1] t = countedDown t n := by
  induction n with
  | zero => exact actedTimer_loadCount opt hs
  | succ n ih =>
    have hn : n + 1 < t.latch.toNat := by omega
    rw [Function.iterate_succ_apply', ih (.inr (by omega)), actedTimer_countedDown opt t hn]

/-- The cycle in which a free run underflows. -/
theorem iterate_actedTimer_last (opt : CountStopUnderflow) {t : Timer} (hs : t.state = .loadCount)
    (hone : t.control.getLsbD 3 = false) :
    (actedTimer opt true)^[if t.latch = 0 then 2 else t.latch.toNat + 1] t =
      { t with value := t.latch, state := .loadCount, underflowedThisCycle := true, interruptPendingNextCycle := false } := by
  split
  case isTrue h =>
    have hz : t.latch.toNat = 0 := by rw [h]; rfl
    rw [Function.iterate_succ_apply', iterate_actedTimer opt hs (.inl rfl),
      actedTimer_countedDown_last opt hone (by omega) (by omega)]
  case isFalse h =>
    have hpos : t.latch.toNat ≠ 0 := fun hz => h (BitVec.eq_of_toNat_eq hz)
    obtain ⟨n, hn⟩ := Nat.exists_eq_succ_of_ne_zero hpos
    rw [hn, Function.iterate_succ_apply', iterate_actedTimer opt hs (by omega),
      actedTimer_countedDown_last opt hone (by omega) (by omega)]

/-- Cycles of a live instance iterate the state table on a timer that counts Phi2 with nothing staged. -/
theorem exists_cycles (n : Nat) {s : State} {c : Inst} {w : Which} (hl : s.live c)
    (hclock : ((s.chip c).timer w).countsSystemClock = true) (hstaged : ((s.chip c).timer w).pendingValid = false) :
    ∃ t, runOps (List.replicate n (.cycle c)) s = .next t ∧
      (t.chip c).timer w = (actedTimer s.cfg.countStopUnderflow true)^[n] ((s.chip c).timer w) := by
  induction n generalizing s with
  | zero => exact ⟨s, rfl, rfl⟩
  | succ n ih =>
    obtain ⟨u, hu, hlu, hcfg, hchip⟩ := exists_cycle hl
    have hfirst : (u.chip c).timer w = actedTimer s.cfg.countStopUnderflow true ((s.chip c).timer w) :=
      hchip ▸ cycle_timer_free hclock hstaged
    obtain ⟨-, hvalid, hsystem, -⟩ := actedTimer_frame s.cfg.countStopUnderflow true ((s.chip c).timer w)
    obtain ⟨t, ht, htimer⟩ := ih hlu (by rw [hfirst, hsystem, hclock]) (by rw [hfirst, hvalid, hstaged])
    refine ⟨t, (runOps_cons hu).trans ht, ?_⟩
    rw [htimer, hfirst, hcfg, Function.iterate_succ_apply]

/-- Settles O33: the run of cycles is the iterated state table, which counts down from the latch (`iterate_actedTimer`). -/
theorem freeRunningPeriod : Obligations.FreeRunningPeriod := by
  intro s c w hl hs hstaged hclock hone
  refine ⟨?_, fun n hpos hn => ?_⟩
  · obtain ⟨t, ht, htimer⟩ := exists_cycles (if ((s.chip c).timer w).latch = 0 then 2 else ((s.chip c).timer w).latch.toNat + 1)
      hl hclock hstaged
    rw [iterate_actedTimer_last _ hs hone] at htimer
    exact ⟨t, ht, by rw [htimer], by rw [htimer], by rw [htimer], by rw [htimer]⟩
  · obtain ⟨t, ht, htimer⟩ := exists_cycles n hl hclock hstaged
    obtain ⟨m, rfl⟩ := Nat.exists_eq_succ_of_ne_zero hpos.ne'
    have hm : m = 0 ∨ m < ((s.chip c).timer w).latch.toNat := by split at hn <;> omega
    rw [iterate_actedTimer _ hs hm] at htimer
    exact ⟨t, ht, by rw [htimer]; rfl⟩

/-! ### The cascade (R121) -/

/-- Timer B in cascade mode: the state table with timer A's underflow of the cycle as its input, then the idle step, which touches neither
value nor flag. -/
theorem cycle_cascade (cfg : Config) (c : Inst) {ch : Chip} (hclock : ch.timerB.countsSystemClock = false)
    (hcascade : ch.timerB.countsOtherTimerUnderflow = true) :
    (ch.cycle cfg c).timerB.value =
        (actedTimer cfg.countStopUnderflow (ch.cycle cfg c).timerA.underflowedThisCycle ch.timerB).value ∧
    (ch.cycle cfg c).timerB.underflowedThisCycle =
        (actedTimer cfg.countStopUnderflow (ch.cycle cfg c).timerA.underflowedThisCycle ch.timerB).underflowedThisCycle := by
  have hB : (ch.cycle cfg c).timerB = Timer.idleStep cfg
      (actedTimer cfg.countStopUnderflow (ch.cycle cfg c).timerA.underflowedThisCycle ch.timerB) := by
    have h := cycle_timer cfg c ch .b
    simp only [inputActive, Chip.timer, hclock, hcascade, Bool.false_or, Bool.true_and] at h
    exact h
  obtain ⟨hvalue, -, -, -, -, hflag, -⟩ := idleStep_frame cfg
    (actedTimer cfg.countStopUnderflow (ch.cycle cfg c).timerA.underflowedThisCycle ch.timerB)
  rw [hB]
  exact ⟨hvalue, hflag⟩

/-- Timer A does not underflow in a cycle in which it does not count. -/
theorem cycle_timerA_not_counting (cfg : Config) (c : Inst) {ch : Chip} (h : ¬ counting ch.timerA) :
    (ch.cycle cfg c).timerA.underflowedThisCycle = false := by
  have hA := cycle_timer cfg c ch .a
  obtain ⟨-, -, -, -, -, hflag, -⟩ := idleStep_frame cfg
    (actedTimer cfg.countStopUnderflow (inputActive .a (ch.timer .a) (ch.cycle cfg c)) (ch.timer .a))
  exact (congrArg Timer.underflowedThisCycle hA).trans (hflag.trans (actedTimer_not_counting _ h).2)

/-- Settles O34: the rows of the state table, by whether timer B counts and whether timer A underflows. -/
theorem cascadeCountsTimerAUnderflows : Obligations.CascadeCountsTimerAUnderflows := by
  intro s t c hl h hclock hcascade
  rw [chip_of_exec_cycle hl h]
  obtain ⟨hvalue, hflag⟩ := cycle_cascade s.cfg c hclock hcascade
  dsimp only
  rw [hvalue, hflag]
  refine ⟨fun hcount => ⟨fun hA => ?_, fun hA h0 h1 => ?_, fun hA hlow => ?_⟩, fun hn1 hn2 => ?_, fun hA => ?_⟩
  · rw [hA]
    exact actedTimer_inactive hcount
  · rw [hA]
    exact actedTimer_decrements hcount h0 h1
  · rw [hA]
    exact actedTimer_underflows hcount hlow
  · exact actedTimer_not_counting _ fun hcount => hcount.elim hn1 hn2
  · refine cycle_timerA_not_counting s.cfg c fun hcount => ?_
    rw [counting, hA] at hcount
    rcases hcount with h | h <;> cases h

/-! ### The one-shot underflow (R284) -/

/-- A one-shot timer whose countdown has underflowed: reloaded, gone to `LoadStop`, both run bits cleared. -/
def underflowedOneShot (t : Timer) : Timer :=
  { t with
    value := t.latch, control := t.control &&& 0xFE, pendingControl := t.pendingControl &&& 0xFE, state := .loadStop,
    underflowedThisCycle := true, interruptPendingNextCycle := false }

theorem actedTimer_oneShot (opt : CountStopUnderflow) {t : Timer} (hs : t.state = .count) (hv : t.value = 1)
    (hone : t.control.getLsbD 3 = true) : actedTimer opt true t = underflowedOneShot t := by
  simp only [actedTimer, hs, hv, or_true, Bool.true_eq_false, if_true, if_false, firedTimer, hone, underflowedOneShot]

theorem and_fe_bit0 (v : Byte) : (v &&& 0xFE).getLsbD 0 = false := by simp

theorem appliedControl_bit0 (cfg : Config) (v : Byte) : (appliedControl cfg v).getLsbD 0 = v.getLsbD 0 := by
  unfold appliedControl
  split <;> simp

/-- The idle step under the default table keeps `LoadStop` and applies the byte when its run bit is clear. -/
theorem idleStep_loadStop {t : Timer} {cfg : Config} (ht : cfg.idleTable = defaultIdleTable) (hv : t.pendingValid = true)
    (hs : t.state = .loadStop) (hrun : t.pendingControl.getLsbD 0 = false) :
    (t.idleStep cfg).state = .loadStop ∧ (t.idleStep cfg).control.getLsbD 0 = false := by
  have hit (l o : Bool) : idleByHand .loadStop false l o = (.loadStop, false) := by cases l <;> rfl
  simp only [Timer.idleStep, hv, if_true, ht, idleLookup_default, hs, hrun, hit, Bool.false_eq_true, if_false,
    appliedControl_bit0, and_self]

/-- Settles O35: the underflow cycle, then the cycle that loads and stops. -/
theorem oneShotUnderflowLosesStagedRun : Obligations.OneShotUnderflowLosesStagedRun := by
  intro s c w hl htable hs hclock hv hone hstaged
  obtain ⟨t, ht, hlt, -, hchipt⟩ := exists_cycle hl
  obtain ⟨u, hu, -, -, hchipu⟩ := exists_cycle hlt
  have hfirst := cycle_timer_system (cfg := s.cfg) (c := c) hclock
  rw [← hchipt, actedTimer_oneShot _ hs hv hone] at hfirst
  obtain ⟨-, hlatch, hvalid, hsystem, -, hflag, -⟩ := idleStep_frame s.cfg (underflowedOneShot ((s.chip c).timer w))
  obtain ⟨hstate, hcontrol⟩ :=
    idleStep_loadStop (t := underflowedOneShot ((s.chip c).timer w)) htable hstaged rfl (and_fe_bit0 _)
  rw [← hfirst] at hlatch hvalid hsystem hflag hstate hcontrol
  have hsecond : (u.chip c).timer w = actedTimer t.cfg.countStopUnderflow true ((t.chip c).timer w) := by
    rw [hchipu]
    exact cycle_timer_free (hsystem.trans hclock) hvalid
  refine ⟨t, u, ht, hu, hstate, hcontrol, hflag, ?_⟩
  rw [hsecond]
  simp only [actedTimer, hstate, hlatch, underflowedOneShot, and_self]

end Sys2Proof.Machine
end

section
/-! PROOFS. The time-of-day clock (42_tod.md): the tick, the carries on any bytes, valid clocks as a count of tenths of a second, and the
hours under `one_to_twelve`. -/

namespace Sys2Proof.Machine

/-! ### The tick (R156, R157, R167) -/

/-- A tick of a live instance. -/
theorem exec_todTick {s : State} {c : Inst} (hl : s.live c) :
    exec (.todTick c) s = .next (s.leaving c ((s.chip c).todTick s.cfg c)) :=
  exec_pin (i := .todTick c) hl rfl

theorem tickedDivisor_eq (d : Byte) : tickedDivisor d = if d = 0 then 0 else d - 1 := by
  unfold tickedDivisor
  by_cases h : d = 0
  · rw [h]
    rfl
  · rw [if_pos (bne_iff_ne.2 h), if_neg h]

theorem todTick_halted {ch : Chip} (cfg : Config) (c : Inst) (h : ch.todHalted = true) : ch.todTick cfg c = ch := by
  rw [Chip.todTick, if_pos h]

theorem todTick_dividing {ch : Chip} (cfg : Config) (c : Inst) (h : ch.todHalted = false) (hd : tickedDivisor ch.todDivisor ≠ 0) :
    ch.todTick cfg c = { ch with todDivisor := tickedDivisor ch.todDivisor } := by
  rw [Chip.todTick, if_neg (by simp [h]), if_neg hd]

theorem todTick_advancing {ch : Chip} (cfg : Config) (c : Inst) (h : ch.todHalted = false) (hd : tickedDivisor ch.todDivisor = 0) :
    ch.todTick cfg c = { ch with todDivisor := todReload cfg ch, tod := ch.tod.advance cfg.todHourStyle }.alarmCompare c := by
  rw [Chip.todTick, if_neg (by simp [h]), if_pos hd]

/-- Everything the alarm comparison does. -/
theorem alarmCompare_eq (c : Inst) (ch : Chip) :
    ch.alarmCompare c =
      if ch.tod = ch.alarm then
        if ch.mask.getLsbD 2 then
          { ch with pending := ch.pending ||| 0x84, intLine := true, out := ch.out ++ [lineEvent c true] }
        else { ch with pending := ch.pending ||| 0x04 }
      else ch := by
  have henabled : ch.enabled 0x04 = ch.mask.getLsbD 2 := enabled_bit ch 2 (by omega)
  rw [Chip.alarmCompare, raiseAndSignal_eq, srcAlarm, henabled, BitVec.or_assoc]
  rfl

/-- Settles O39: the branches of the tick, then those of the alarm comparison. -/
theorem todTickDividesAdvancesAndCompares : Obligations.TodTickDividesAdvancesAndCompares := by
  intro s c hl
  rw [exec_todTick hl]
  dsimp only
  rw [← tickedDivisor_eq]
  refine ⟨fun hh => ?_, fun hh hd => ?_, fun hh hd ha => ?_, fun hh hd ha hm => ?_, fun hh hd ha hm => ?_⟩
  · rw [todTick_halted _ _ hh]
  · rw [todTick_dividing _ _ hh hd]
  · rw [todTick_advancing _ _ hh hd, alarmCompare_eq, if_neg ha]
    rfl
  · rw [todTick_advancing _ _ hh hd, alarmCompare_eq, if_pos ha, if_neg (by simpa using hm)]
    rfl
  · rw [todTick_advancing _ _ hh hd, alarmCompare_eq, if_pos ha, if_pos hm]
    rfl

/-- The clock after a tick of a running live instance whose divisor runs out. -/
theorem tod_of_exec_todTick {s t : State} {c : Inst} (hl : s.live c) (h : exec (.todTick c) s = .next t)
    (hh : (s.chip c).todHalted = false) (hd : (s.chip c).todDivisor = 0 ∨ (s.chip c).todDivisor = 1) :
    (t.chip c).tod = (s.chip c).tod.advance s.cfg.todHourStyle := by
  rw [exec_todTick hl] at h
  injection h with h
  rw [← h, leaving_chip_same, todTick_tod (ticksOver_of hh hd)]

/-! ### The advance by its carries (R158 to R161) -/

section
variable {style : HourStyle} {t : TodTime}

theorem advance_deciseconds (h : (nextDeciseconds t.deciseconds).2 = false) :
    t.advance style = { t with deciseconds := (nextDeciseconds t.deciseconds).1 } := by
  simp only [TodTime.advance, h, Bool.false_eq_true, if_false]

theorem advance_seconds (hd : (nextDeciseconds t.deciseconds).2 = true) (h : (nextSixty t.seconds).2 = false) :
    t.advance style =
      { t with seconds := (nextSixty t.seconds).1, deciseconds := (nextDeciseconds t.deciseconds).1 } := by
  simp only [TodTime.advance, hd, h, Bool.false_eq_true, if_true, if_false]

theorem advance_minutes (hd : (nextDeciseconds t.deciseconds).2 = true) (hs : (nextSixty t.seconds).2 = true)
    (h : (nextSixty t.minutes).2 = false) :
    t.advance style =
      { t with
        minutes := (nextSixty t.minutes).1, seconds := (nextSixty t.seconds).1,
        deciseconds := (nextDeciseconds t.deciseconds).1 } := by
  simp only [TodTime.advance, hd, hs, h, Bool.false_eq_true, if_true, if_false]

theorem advance_hours (hd : (nextDeciseconds t.deciseconds).2 = true) (hs : (nextSixty t.seconds).2 = true)
    (h : (nextSixty t.minutes).2 = true) :
    t.advance style =
      ⟨nextHour style t.hours, (nextSixty t.minutes).1, (nextSixty t.seconds).1, (nextDeciseconds t.deciseconds).1⟩ := by
  simp only [TodTime.advance, hd, hs, h, if_true]

end

theorem nextDeciseconds_below {v : Byte} (h : v.toNat % 16 < 9) :
    nextDeciseconds v = (BitVec.ofNat 8 (v.toNat % 16 + 1), false) := by
  rw [nextDeciseconds_eq, if_neg (by omega)]

theorem nextDeciseconds_rolls {v : Byte} (h : 9 ≤ v.toNat % 16) : nextDeciseconds v = (0x00, true) := by
  rw [nextDeciseconds_eq, if_pos h]

theorem nextSixty_below {v : Byte} (h : sixtyPlusOne v < 0x60) : nextSixty v = (BitVec.ofNat 8 (sixtyPlusOne v), false) := by
  rw [nextSixty_eq, if_neg (by omega)]

theorem nextSixty_rolls {v : Byte} (h : 0x60 ≤ sixtyPlusOne v) : nextSixty v = (0x00, true) := by
  rw [nextSixty_eq, if_pos h]

/-- A flag over low bits that leave bit 7 free is a sum. -/
theorem withPmFlag_eq (pm : Bool) {h : Nat} (hh : h < 128) : withPmFlag pm h = BitVec.ofNat 8 ((if pm then 128 else 0) + h) := by
  cases pm
  · simp [withPmFlag]
  · apply BitVec.eq_of_toNat_eq
    have hsum : 128 + h = 128 ||| h := Nat.two_pow_add_eq_or_of_lt (i := 7) hh 1
    have htop : (0x80 : Byte).toNat = 128 := rfl
    simp only [withPmFlag, if_true, BitVec.toNat_or, BitVec.toNat_ofNat, htop, hsum]
    rw [Nat.mod_eq_of_lt (by omega : h < 2 ^ 8), ← hsum, Nat.mod_eq_of_lt (by omega : 128 + h < 2 ^ 8), hsum]

/-- The flag as a number. -/
theorem pmFlag_eq (v : Byte) : pmFlag v = decide (128 ≤ v.toNat) := BitVec.msb_eq_decide v

/-- Hours below the roll keep the flag. -/
theorem nextHourZero_below {v : Byte} (h : hourPlusOne v ≤ 0x11) :
    nextHourZero v = BitVec.ofNat 8 (v.toNat / 128 * 128 + hourPlusOne v) := by
  have hv := v.isLt
  rw [nextHourZero_eq, if_neg (by omega), withPmFlag_eq _ (by omega), pmFlag_eq]
  congr 2
  by_cases hpm : 128 ≤ v.toNat <;> simp only [hpm, decide_true, decide_false, if_true, if_false, Bool.false_eq_true] <;> omega

/-- Hours that roll toggle it. -/
theorem nextHourZero_rolls {v : Byte} (h : 0x11 < hourPlusOne v) :
    nextHourZero v = BitVec.ofNat 8 (128 - v.toNat / 128 * 128) := by
  have hv := v.isLt
  rw [nextHourZero_eq, if_pos h, withPmFlag_eq _ (by omega), pmFlag_eq]
  congr 1
  by_cases hpm : 128 ≤ v.toNat <;>
    simp only [hpm, decide_true, decide_false, Bool.not_true, Bool.not_false, if_true, if_false, Bool.false_eq_true] <;> omega

/-- Settles O40: the advance by how far the carry runs. -/
theorem clockCarriesOnAnyDigits : Obligations.ClockCarriesOnAnyDigits := by
  intro s t c hl h hstyle hh hd
  dsimp only
  rw [tod_of_exec_todTick hl h hh hd, hstyle]
  refine ⟨fun h1 => ?_, fun h1 => ⟨fun h2 => ?_, fun h2 h3 => ?_, fun h2 h3 => ⟨fun h4 => ?_, fun h4 => ?_⟩⟩⟩
  · rw [advance_deciseconds] <;> rw [nextDeciseconds_below h1]
  · rw [advance_seconds] <;> simp only [nextDeciseconds_rolls h1, nextSixty_below h2]
  · rw [advance_minutes] <;> simp only [nextDeciseconds_rolls h1, nextSixty_rolls h2, nextSixty_below h3]
  · rw [advance_hours] <;>
      simp only [nextDeciseconds_rolls h1, nextSixty_rolls h2, nextSixty_rolls h3, nextHour, nextHourZero_below h4]
  · rw [advance_hours] <;>
      simp only [nextDeciseconds_rolls h1, nextSixty_rolls h2, nextSixty_rolls h3, nextHour, nextHourZero_rolls h4]

/-! ### Valid clocks (R169) -/

/-- A valid deciseconds byte goes up by one, or rolls from 9. -/
theorem nextDeciseconds_valid {v : Byte} (h : v.toNat ≤ 9) :
    (v.toNat < 9 ∧ (nextDeciseconds v).2 = false ∧ (nextDeciseconds v).1.toNat = v.toNat + 1) ∨
      (v.toNat = 9 ∧ nextDeciseconds v = (0x00, true)) := by
  by_cases h9 : v.toNat = 9
  · exact .inr ⟨h9, nextDeciseconds_rolls (by omega)⟩
  · rw [nextDeciseconds_below (by omega), BitVec.toNat_ofNat]
    exact .inl ⟨by omega, rfl, by omega⟩

/-- A valid byte of seconds or minutes stays valid and goes up by one, or rolls from 59. -/
theorem nextSixty_valid {v : Byte} (h : validSixty v) :
    ((nextSixty v).2 = false ∧ validSixty (nextSixty v).1 ∧ bcdValue (nextSixty v).1.toNat = bcdValue v.toNat + 1) ∨
      (bcdValue v.toNat = 59 ∧ nextSixty v = (0x00, true)) := by
  obtain ⟨hunits, htens⟩ := h
  have hnext : sixtyPlusOne v = if 9 ≤ v.toNat % 16 then (v.toNat / 16 + 1) * 16 else v.toNat + 1 := by
    unfold sixtyPlusOne digitsPlusOne
    split <;> omega
  by_cases hroll : 0x60 ≤ sixtyPlusOne v
  · refine .inr ⟨?_, nextSixty_rolls hroll⟩
    unfold bcdValue
    split at hnext <;> omega
  · rw [nextSixty_below (by omega)]
    refine .inl ⟨rfl, ?_⟩
    simp only [validSixty, bcdValue, BitVec.toNat_ofNat]
    split at hnext <;> omega

theorem bcdValue_le_of_validSixty {v : Byte} (h : validSixty v) : bcdValue v.toNat ≤ 59 := by
  unfold validSixty at h
  unfold bcdValue
  omega

/-- The hours since midnight that a valid hours byte says. -/
def hoursOfDay (v : Byte) : Nat := v.toNat / 128 * 12 + bcdValue (v.toNat % 128)

theorem hoursOfDay_lt {v : Byte} (h : validHour v) : hoursOfDay v < 24 := by
  have := v.isLt
  unfold validHour at h
  unfold hoursOfDay bcdValue
  omega

/-- A valid hours byte stays valid and is one hour later, modulo one day. -/
theorem nextHourZero_valid {v : Byte} (h : validHour v) :
    validHour (nextHourZero v) ∧ hoursOfDay (nextHourZero v) = (hoursOfDay v + 1) % 24 := by
  have hv := v.isLt
  obtain ⟨hunits, hlow⟩ := h
  have hnext : hourPlusOne v = if 9 ≤ v.toNat % 16 then v.toNat % 128 + 7 else v.toNat % 128 + 1 := by
    unfold hourPlusOne digitsPlusOne
    split <;> omega
  by_cases hroll : 0x11 < hourPlusOne v
  · rw [nextHourZero_rolls hroll]
    simp only [validHour, hoursOfDay, bcdValue, BitVec.toNat_ofNat]
    split at hnext <;> omega
  · rw [nextHourZero_below (by omega)]
    simp only [validHour, hoursOfDay, bcdValue, BitVec.toNat_ofNat]
    split at hnext <;> omega

theorem tenths_eq (t : TodTime) :
    tenths t = ((hoursOfDay t.hours * 60 + bcdValue t.minutes.toNat) * 60 + bcdValue t.seconds.toNat) * 10 + t.deciseconds.toNat :=
  rfl

theorem validSixty_zero : validSixty 0x00 := by unfold validSixty; decide

theorem toNat_zero_byte : (0x00 : Byte).toNat = 0 := rfl

theorem bcdValue_zero : bcdValue 0 = 0 := rfl

/-- A valid clock under the default hour style advances to a valid clock one tenth later, modulo one day. -/
theorem advance_valid {t : TodTime} (h : validTime t) :
    validTime (t.advance .zeroToEleven) ∧ tenths (t.advance .zeroToEleven) = (tenths t + 1) % 864000 := by
  obtain ⟨hhour, hmin, hsec, hdec⟩ := h
  have hhours := hoursOfDay_lt hhour
  have hmins := bcdValue_le_of_validSixty hmin
  have hsecs := bcdValue_le_of_validSixty hsec
  obtain ⟨hlt, hd, hdv⟩ | ⟨hdv, hd⟩ := nextDeciseconds_valid hdec
  · rw [advance_deciseconds hd]
    refine ⟨⟨hhour, hmin, hsec, ?_⟩, ?_⟩
    · dsimp only
      omega
    · simp only [tenths_eq]
      omega
  obtain ⟨hs, hsv, hsn⟩ | ⟨hsv, hs⟩ := nextSixty_valid hsec
  · rw [advance_seconds (by rw [hd]) hs, hd]
    refine ⟨⟨hhour, hmin, hsv, Nat.zero_le _⟩, ?_⟩
    have := bcdValue_le_of_validSixty hsv
    simp only [tenths_eq, hsn, toNat_zero_byte]
    omega
  obtain ⟨hm, hmv, hmn⟩ | ⟨hmv, hm⟩ := nextSixty_valid hmin
  · rw [advance_minutes (by rw [hd]) (by rw [hs]) hm, hd, hs]
    refine ⟨⟨hhour, hmv, validSixty_zero, Nat.zero_le _⟩, ?_⟩
    have := bcdValue_le_of_validSixty hmv
    simp only [tenths_eq, hmn, toNat_zero_byte, bcdValue_zero]
    omega
  obtain ⟨hhv, hhn⟩ := nextHourZero_valid hhour
  rw [advance_hours (by rw [hd]) (by rw [hs]) (by rw [hm]), hd, hs, hm]
  refine ⟨⟨hhv, validSixty_zero, validSixty_zero, Nat.zero_le _⟩, ?_⟩
  simp only [tenths_eq, nextHour, hhn, toNat_zero_byte, bcdValue_zero]
  omega

/-- Settles O41: a tick that advances, by `advance_valid`. -/
theorem validClockAdvancesOneTenth : Obligations.ValidClockAdvancesOneTenth := by
  intro s t c hl h hstyle hh hd hvalid
  rw [tod_of_exec_todTick hl h hh hd, hstyle]
  exact advance_valid hvalid

/-! ### Hours 1 to 12 (R162) -/

/-- The last tenth of an hour. -/
theorem advance_lastTenth (style : HourStyle) {t : TodTime} (hm : t.minutes = 0x59) (hs : t.seconds = 0x59)
    (hd : t.deciseconds = 0x09) : t.advance style = ⟨nextHour style t.hours, 0, 0, 0⟩ := by
  have hroll : nextSixty 0x59 = (0x00, true) := nextSixty_rolls (by decide)
  have hroll10 : nextDeciseconds 0x09 = (0x00, true) := nextDeciseconds_rolls (by decide)
  rw [advance_hours] <;> simp only [hm, hs, hd, hroll, hroll10]

/-- The hours 1 to 8, with either flag, go up by one. -/
theorem nextHourOne_low {h : Byte} (h1 : 1 ≤ h) (h8 : h ≤ 8) (pm : Bool) :
    nextHourOne ((if pm then 0x80 else 0x00) ||| h) = (if pm then 0x80 else 0x00) ||| (h + 1) := by
  have steps : ∀ n : Fin 8, ∀ pm : Bool,
      nextHourOne ((if pm then 0x80 else 0x00) ||| BitVec.ofNat 8 (n.val + 1)) =
        (if pm then 0x80 else 0x00) ||| (BitVec.ofNat 8 (n.val + 1) + 1) := by decide
  have hbound : h.toNat - 1 < 8 := by bv_omega
  have hh : BitVec.ofNat 8 (h.toNat - 1 + 1) = h := by bv_omega
  have := steps ⟨h.toNat - 1, hbound⟩ pm
  rwa [hh] at this

/-- Settles O42: the last tenth of an hour, then the hours byte by byte. -/
theorem twelveHourStyleSequence : Obligations.TwelveHourStyleSequence := by
  intro s t c hl h hstyle hh hd hm hsec hdec pm
  dsimp only
  rw [tod_of_exec_todTick hl h hh hd, hstyle, advance_lastTenth _ hm hsec hdec, nextHour]
  refine ⟨fun e => ?_, fun e => ?_, fun e => ?_, fun e => ?_, fun n h1 h8 e => ?_, fun e => ?_, fun e => ?_, fun e => ?_⟩
  case refine_5 => rw [e, nextHourOne_low h1 h8]
  all_goals
    rw [e]
    cases pm <;> rfl

end Sys2Proof.Machine
end

section
/-! PROOFS. The register file (43_register_file.md): what each read returns and each write stores, at every mirror, and the port lines bit by
bit. -/

namespace Sys2Proof.Machine

/-! ### Reads that change nothing (R190, R191, R198 to R201, R206, R208, R209; 42_tod.md R165, R171) -/

/-- Settles O10: the four rows of the timers' values. -/
theorem timerReadsGiveLiveValue : Obligations.TimerReadsGiveLiveValue := by
  intro s c hl
  refine ⟨?_, ?_, ?_, ?_⟩
  · exact readGives_of_ordinary hl (decode_rdTalo c) (fun _ => rfl) (fun _ => rfl) fun _ => reading_self s c _
  · exact readGives_of_ordinary hl (decode_rdTahi c) (fun _ => rfl) (fun _ => rfl) fun _ => reading_self s c _
  · exact readGives_of_ordinary hl (decode_rdTblo c) (fun _ => rfl) (fun _ => rfl) fun _ => reading_self s c _
  · exact readGives_of_ordinary hl (decode_rdTbhi c) (fun _ => rfl) (fun _ => rfl) fun _ => reading_self s c _

/-- Settles O11: the two control rows. -/
theorem controlReadsGiveEffectiveByte : Obligations.ControlReadsGiveEffectiveByte := by
  intro s c hl
  refine ⟨?_, ?_⟩
  · exact readGives_of_ordinary hl (decode_rdCra c) (fun _ => rfl) (fun _ => rfl) fun _ => reading_self s c _
  · exact readGives_of_ordinary hl (decode_rdCrb c) (fun _ => rfl) (fun _ => rfl) fun _ => reading_self s c _

/-- Settles O12: the rows of the directions and of the serial register. -/
theorem directionAndSerialReads : Obligations.DirectionAndSerialReads := by
  intro s c hl
  refine ⟨?_, ?_, ?_⟩
  · exact readGives_of_ordinary hl (decode_rdDdra c) (fun _ => rfl) (fun _ => rfl) fun _ => reading_self s c _
  · exact readGives_of_ordinary hl (decode_rdDdrb c) (fun _ => rfl) (fun _ => rfl) fun _ => reading_self s c _
  · exact readGives_of_ordinary hl (decode_rdSdr c) (fun _ => rfl) (fun _ => rfl) fun _ => reading_self s c _

/-- Settles O13: the rows of seconds and minutes. -/
theorem secondsAndMinutesReads : Obligations.SecondsAndMinutesReads := by
  intro s c hl
  refine ⟨?_, ?_⟩
  · exact readGives_of_ordinary hl (decode_rdTodsec c) (fun _ => rfl) (fun _ => rfl) fun _ => reading_self s c _
  · exact readGives_of_ordinary hl (decode_rdTodmin c) (fun _ => rfl) (fun _ => rfl) fun _ => reading_self s c _

/-! ### Reads that halt and release the clock (42_tod.md R163, R164) -/

/-- Settles O14: the two rows at every mirror, and the accesses out of page. -/
theorem hoursReadHaltsDecisecondsReadReleases : Obligations.HoursReadHaltsDecisecondsReadReleases := by
  refine ⟨fun s c hl => ⟨?_, ?_⟩, fun s c addr hl hp => ⟨?_, ?_⟩⟩
  · exact readGives_of_ordinary hl (decode_rdTod10 c) (fun _ => rfl) (fun _ => rfl) fun _ => rfl
  · exact readGives_of_ordinary hl (decode_rdTodhr c) (fun _ => rfl) (fun _ => rfl) fun _ => rfl
  · exact exec_outOfPage (i := .rdTod10 c addr) hl rfl hp
  · exact exec_outOfPage (i := .rdTodhr c addr) hl rfl hp

/-! ### Port reads (R185 to R189) -/

theorem readPortA2_eq (ch : Chip) (serial : Byte) :
    readPortA2 ch serial = serial.extractLsb' 6 2 ++ (ch.portA ||| ~~~ch.directionA).extractLsb' 0 6 := by
  apply BitVec.eq_of_getLsbD_eq
  intro i hi
  simp only [readPortA2, Chip.pinsA, serialPinBits, serialInputBits, BitVec.getLsbD_or, BitVec.getLsbD_and,
    BitVec.getLsbD_append, BitVec.getLsbD_extractLsb']
  interval_cases i <;> simp

/-- Settles O16: the two rows of instance 2. -/
theorem instance2PortReads : Obligations.Instance2PortReads := by
  intro s hl
  refine ⟨?_, ?_⟩
  · refine readGives_of_ordinary hl decode_rdPra2 (fun _ => rfl) (fun _ => rfl) fun _ => ?_
    rw [← readPortA2_eq]
    exact reading_self s .two _
  · exact readGives_of_ordinary hl decode_rdPrb2 (fun _ => rfl) (fun _ => rfl) fun _ => reading_self s .two _

/-- A bit of port A of instance 1: the pin, joystick 2, and the columns that are low (R185). -/
theorem readPortA1_bit (ch : Chip) (x : Instance1) (p : Fin 8) :
    (readPortA1 ch x).getLsbD p.val = true ↔
      (ch.directionA.getLsbD p.val = true → ch.portA.getLsbD p.val = true) ∧ x.joystick2.getLsbD p.val = true ∧
      ∀ q : Fin 8,
        ((ch.directionB.getLsbD q.val = true → ch.portB.getLsbD q.val = true) ∧ x.joystick1.getLsbD q.val = true) ∨
        x.reverseKeyMatrix[q].getLsbD p.val = true := by
  rw [readPortA1, BitVec.getLsbD_and, Bool.and_eq_true, scanReduce_bit]
  simp only [Chip.pinsA, Chip.pinsB, BitVec.getLsbD_and, Bool.and_eq_true, pin_bit]
  tauto

/-- A bit of port B of instance 1: joystick 1, and the latch of an output or the rows that are low of an input (R186). -/
theorem readPortB1_bit (ch : Chip) (x : Instance1) (p : Fin 8) :
    (readPortB1 ch x).getLsbD p.val = true ↔
      x.joystick1.getLsbD p.val = true ∧
      ((ch.directionB.getLsbD p.val = true ∧ ch.portB.getLsbD p.val = true) ∨
        (ch.directionB.getLsbD p.val = false ∧
          ∀ q : Fin 8,
            ((ch.directionA.getLsbD q.val = true → ch.portA.getLsbD q.val = true) ∧ x.joystick2.getLsbD q.val = true) ∨
            x.keyMatrix[q].getLsbD p.val = true)) := by
  have hinput : (~~~ch.directionB).getLsbD p.val = true ↔ ch.directionB.getLsbD p.val = false := by
    rw [BitVec.getLsbD_not, decide_eq_true p.isLt, Bool.true_and, Bool.not_eq_true']
  rw [readPortB1, BitVec.getLsbD_and, Bool.and_eq_true, BitVec.getLsbD_or, Bool.or_eq_true, scanReduce_bit, hinput]
  simp only [Chip.pinsA, BitVec.getLsbD_and, Bool.and_eq_true, pin_bit]
  tauto

/-- At every mirror, port B of instance 1 reads `readPortB1`. -/
theorem readGives_rdPrb1 {s : State} (hl : s.live .one) :
    ReadGives s .one 0x1 .rdPrb1 { s with readData := some (readPortB1 s.chip1 s.inst1) } :=
  readGives_of_ordinary hl decode_rdPrb1 (fun _ => rfl) (fun _ => rfl) fun _ => reading_self s .one _

/-- Settles O17: the two rows of instance 1, with their bytes bit by bit. -/
theorem instance1PortReadsBitwise : Obligations.Instance1PortReadsBitwise :=
  fun s hl => ⟨readPortA1 s.chip1 s.inst1, readPortB1 s.chip1 s.inst1,
    readGives_of_ordinary hl decode_rdPra1 (fun _ => rfl) (fun _ => rfl) fun _ => reading_self s .one _,
    readGives_rdPrb1 hl, fun p => ⟨readPortA1_bit s.chip1 s.inst1 p, readPortB1_bit s.chip1 s.inst1 p⟩⟩

theorem getLsbD_ones (p : Fin 8) : (0xFF : Byte).getLsbD p.val = true := by
  revert p
  decide

theorem byte_ext {v w : Byte} (h : ∀ p : Fin 8, v.getLsbD p.val = true ↔ w.getLsbD p.val = true) : v = w :=
  BitVec.eq_of_getLsbD_eq fun i hi => Bool.eq_iff_iff.2 (h ⟨i, hi⟩)

/-- With port A all outputs, port B all inputs and no joystick closed, port B reads the rows that are low on port A. -/
theorem readPortB1_scan {ch : Chip} {x : Instance1} (hA : ch.directionA = 0xFF) (hB : ch.directionB = 0x00)
    (h1 : x.joystick1 = 0xFF) (h2 : x.joystick2 = 0xFF) (p : Fin 8) :
    (readPortB1 ch x).getLsbD p.val = true ↔
      ∀ q : Fin 8, ch.portA.getLsbD q.val = true ∨ x.keyMatrix[q].getLsbD p.val = true := by
  have hzero : (0x00 : Byte).getLsbD p.val = false := BitVec.getLsbD_zero
  simp only [readPortB1_bit, hA, hB, h1, h2, getLsbD_ones, hzero, true_and, and_true, false_and, false_or, Bool.false_eq_true,
    forall_const]

/-- Settles O18: the scan with one row low, and with none. -/
theorem keyboardScanReadsSelectedRow : Obligations.KeyboardScanReadsSelectedRow := by
  intro s hl hA hB h1 h2
  refine ⟨fun r hrow => ?_, fun hnone => ?_⟩
  · have hbit : ∀ r q : Fin 8, (~~~(1#8 <<< r.val)).getLsbD q.val = true ↔ q ≠ r := by decide
    have hbyte : readPortB1 s.chip1 s.inst1 = s.inst1.keyMatrix[r] := by
      refine byte_ext fun p => ?_
      rw [readPortB1_scan hA hB h1 h2, hrow]
      simp only [hbit]
      exact ⟨fun h => (h r).resolve_left fun hne => hne rfl, fun h q => or_iff_not_imp_left.2 fun hq => by
        rw [not_not.1 hq]
        exact h⟩
    rw [← hbyte]
    exact readGives_rdPrb1 hl
  · have hbyte : readPortB1 s.chip1 s.inst1 = 0xFF := by
      refine byte_ext fun p => ?_
      rw [readPortB1_scan hA hB h1 h2, hnone]
      simp only [getLsbD_ones, true_or, implies_true]
    rw [← hbyte]
    exact readGives_rdPrb1 hl

/-! ### Port writes (R192 to R197) -/

theorem bankSelect_eq (ch : Chip) : ch.bankSelect = (~~~ch.portA &&& ch.directionA).extractLsb' 0 2 := by
  apply BitVec.eq_of_getLsbD_eq
  intro i hi
  simp only [Chip.bankSelect, Chip.pinsA, bankBits, BitVec.getLsbD_setWidth, BitVec.getLsbD_and, BitVec.getLsbD_not,
    BitVec.getLsbD_or, BitVec.getLsbD_extractLsb']
  interval_cases i <;> simp

/-- Storing a record after the shadow write, with the events that follow it. -/
theorem noData_setChip_emit (s : State) (c : Inst) (addr : Addr) (v : Byte) {ch : Chip} (h : ch.out = (s.chip c).out) :
    (s.setChip c (ch.emit (.shadow addr v))).noData = s.storing c addr v [] ch := by
  rw [noData_setChip, State.storing, Chip.emit, h]

/-- A write of port A or direction A on instance 2: the bank event follows the shadow write. -/
theorem bankNotify_setChip_emit (s : State) (addr : Addr) (v : Byte) {ch : Chip} (h : ch.out = s.chip2.out) :
    ((s.setChip .two (ch.emit (.shadow addr v))).afterPortA .two).noData = s.storing .two addr v [.bank ch.bankSelect] ch := by
  simp only [State.afterPortA, bankNotify_fields, setChip_two, emit_bankSelect, emit_out, h, List.append_assoc]
  rfl

/-- Settles O19: the rows of port A and direction A, on either instance. -/
theorem portAWritesNotifyBank : Obligations.PortAWritesNotifyBank := by
  refine ⟨fun s v hl => ⟨?_, ?_⟩, fun s v hl => ⟨?_, ?_⟩⟩
  · exact writeGives_of_ordinary hl (decode_wrPra .one · · v) (fun _ => rfl) (fun _ => rfl) fun addr =>
      noData_setChip_emit s .one addr v (ch := { s.chip1 with portA := v }) rfl
  · exact writeGives_of_ordinary hl (decode_wrDdra .one · · v) (fun _ => rfl) (fun _ => rfl) fun addr =>
      noData_setChip_emit s .one addr v (ch := { s.chip1 with directionA := v }) rfl
  · refine writeGives_of_ordinary hl (decode_wrPra .two · · v) (fun _ => rfl) (fun _ => rfl) fun addr => ?_
    exact (bankNotify_setChip_emit s addr v (ch := { s.chip2 with portA := v }) rfl).trans (by rw [bankSelect_eq])
  · refine writeGives_of_ordinary hl (decode_wrDdra .two · · v) (fun _ => rfl) (fun _ => rfl) fun addr => ?_
    exact (bankNotify_setChip_emit s addr v (ch := { s.chip2 with directionA := v }) rfl).trans (by rw [bankSelect_eq])

theorem lightPenTriggers_iff (edge : LightPenEdge) (old new : Byte) :
    lightPenTriggers edge old new = true ↔ (edge = .both ∧ new ≠ old) ∨ (edge = .falling ∧ new = 0x00 ∧ old = 0x10) := by
  cases edge <;> simp [lightPenTriggers, lightPenLine]

/-- A write of port B or direction B on instance 1: the light-pen check of the new pins follows the shadow write (R196). -/
theorem lightPenCheck_setChip_emit (s : State) (addr : Addr) (v : Byte) {ch : Chip} (h : ch.out = s.chip1.out) :
    ((s.setChip .one (ch.emit (.shadow addr v))).afterPortB .one).noData =
      { s.storing .one addr v
          (if (s.cfg.lightPenEdge = .both ∧ ch.pinsB &&& 0x10 ≠ s.inst1.previousLightPenLine) ∨
              (s.cfg.lightPenEdge = .falling ∧ ch.pinsB &&& 0x10 = 0x00 ∧ s.inst1.previousLightPenLine = 0x10)
            then [Event.lightPen] else []) ch with
        inst1 := { s.inst1 with previousLightPenLine := ch.pinsB &&& 0x10 } } := by
  simp only [State.afterPortB, lightPenCheck_fields, setChip_one, emit_pinsB, emit_out, h, List.append_assoc,
    lightPenTriggers_iff]
  rfl

/-- Settles O20: the rows of port B and direction B, on either instance. -/
theorem portBWritesCheckLightPen : Obligations.PortBWritesCheckLightPen := by
  refine ⟨fun s v hl => ⟨?_, ?_⟩, fun s v hl => ⟨?_, ?_⟩⟩
  · exact writeGives_of_ordinary hl (decode_wrPrb .one · · v) (fun _ => rfl) (fun _ => rfl) fun addr =>
      lightPenCheck_setChip_emit s addr v (ch := { s.chip1 with portB := v }) rfl
  · exact writeGives_of_ordinary hl (decode_wrDdrb .one · · v) (fun _ => rfl) (fun _ => rfl) fun addr =>
      lightPenCheck_setChip_emit s addr v (ch := { s.chip1 with directionB := v }) rfl
  · exact writeGives_of_ordinary hl (decode_wrPrb .two · · v) (fun _ => rfl) (fun _ => rfl) fun addr =>
      noData_setChip_emit s .two addr v (ch := { s.chip2 with portB := v }) rfl
  · exact writeGives_of_ordinary hl (decode_wrDdrb .two · · v) (fun _ => rfl) (fun _ => rfl) fun addr =>
      noData_setChip_emit s .two addr v (ch := { s.chip2 with directionB := v }) rfl

/-! ### Timer writes (R203, R205, R210 to R212) -/

theorem writeLatchHi_eq (v : Byte) (t : Timer) :
    t.writeLatchHi v =
      { t with
        latch := v ++ t.latch.extractLsb' 0 8
        value := if t.control.getLsbD 0 then t.value else v ++ t.latch.extractLsb' 0 8 } := by
  rw [writeLatchHi_fields, withHi8_eq]
  rfl

/-- Settles O22: the rows `WR_TAHI` and `WR_TBHI`. -/
theorem latchHighWritesLoadStoppedTimer : Obligations.LatchHighWritesLoadStoppedTimer := by
  refine fun s c v hl => ⟨?_, ?_⟩
  · refine writeGives_of_ordinary hl (decode_wrTahi c · · v) (fun _ => rfl) (fun _ => rfl) fun addr => ?_
    rw [ordinary, State.written, writeLatchHi_eq]
    rfl
  · refine writeGives_of_ordinary hl (decode_wrTbhi c · · v) (fun _ => rfl) (fun _ => rfl) fun addr => ?_
    rw [ordinary, State.written, writeLatchHi_eq]
    rfl

/-- The input selection of control B by its two bits (30_encoding.md R89). -/
theorem inModeB_eq (v : Byte) : inModeB v = BitVec.ofBool (v.getLsbD 6) ++ BitVec.ofBool (v.getLsbD 5) := by
  apply BitVec.eq_of_getLsbD_eq
  intro i hi
  simp only [inModeB, inModeBPos, BitVec.getLsbD_extractLsb', BitVec.getLsbD_append, BitVec.getLsbD_ofBool]
  interval_cases i <;> simp

theorem writeControlB_eq (v : Byte) (t : Timer) :
    t.writeControlB v =
      { t with
        pendingControl := v, pendingValid := true, countsSystemClock := !v.getLsbD 6 && !v.getLsbD 5,
        countsOtherTimerUnderflow := v.getLsbD 6 && !v.getLsbD 5 } := by
  simp only [Timer.writeControlB, Timer.stageControl, inModeB_eq]
  cases v.getLsbD 6 <;> cases v.getLsbD 5 <;> rfl

/-- Settles O23: the rows `WR_CRA` and `WR_CRB`. -/
theorem controlWritesStageAndSelectInput : Obligations.ControlWritesStageAndSelectInput := by
  refine fun s c v hl => ⟨?_, ?_⟩
  · exact writeGives_of_ordinary hl (decode_wrCra c · · v) (fun _ => rfl) (fun _ => rfl) fun addr => rfl
  · refine writeGives_of_ordinary hl (decode_wrCrb c · · v) (fun _ => rfl) (fun _ => rfl) fun addr => ?_
    rw [ordinary, State.written, writeControlB_eq]
    rfl

/-! ### Writes of the clock and of the serial register (42_tod.md R166; R207) -/

/-- A TOD write after its shadow write, routed by bit 7 of timer B's effective control byte. -/
theorem written_todWrite (s : State) (c : Inst) (addr : Addr) (v : Byte) (masks : TodMasks) (f : TodField) :
    s.written c addr v (Chip.todWrite masks f v) =
      s.storing c addr v []
        (if (s.chip c).timerB.control.getLsbD 7 then
          { s.chip c with alarm := (s.chip c).alarm.put f (v &&& todWriteMask masks f) }
        else { s.chip c with tod := (s.chip c).tod.put f (v &&& todWriteMask masks f) }) := by
  rw [State.written, Chip.todWrite, emit_timerB, alarmSelect, alarmSelectPos]
  split <;> rfl

/-- Settles O24: the default masks, and the four rows. -/
theorem todWritesRouteByAlarmSelect : Obligations.TodWritesRouteByAlarmSelect := by
  refine ⟨rfl, fun s c v hl => ⟨?_, ?_, ?_, ?_⟩⟩
  · exact writeGives_of_ordinary hl (decode_wrTod10 c · · v) (fun _ => rfl) (fun _ => rfl) fun addr =>
      written_todWrite s c addr v s.cfg.todWriteMasks .deciseconds
  · exact writeGives_of_ordinary hl (decode_wrTodsec c · · v) (fun _ => rfl) (fun _ => rfl) fun addr =>
      written_todWrite s c addr v s.cfg.todWriteMasks .seconds
  · exact writeGives_of_ordinary hl (decode_wrTodmin c · · v) (fun _ => rfl) (fun _ => rfl) fun addr =>
      written_todWrite s c addr v s.cfg.todWriteMasks .minutes
  · exact writeGives_of_ordinary hl (decode_wrTodhr c · · v) (fun _ => rfl) (fun _ => rfl) fun addr =>
      written_todWrite s c addr v s.cfg.todWriteMasks .hours

/-- A serial write after its shadow write. -/
theorem written_writeSdr (s : State) (c : Inst) (addr : Addr) (v : Byte) :
    s.written c addr v (Chip.writeSdr s.cfg c v) =
      if s.cfg.sdrWriteRaises then
        if (s.chip c).mask.getLsbD 3 then
          s.storing c addr v [lineEvent c true]
            { s.chip c with sdr := v, pending := (s.chip c).pending ||| 0x88, intLine := true }
        else s.storing c addr v [] { s.chip c with sdr := v, pending := (s.chip c).pending ||| 0x08 }
      else s.storing c addr v [] { s.chip c with sdr := v } := by
  have henabled : Chip.enabled { (s.chip c).emit (.shadow addr v) with sdr := v } 0x08 = (s.chip c).mask.getLsbD 3 :=
    enabled_bit _ 3 (by omega)
  rw [State.written, Chip.writeSdr, raiseAndSignal_eq, srcSerial, henabled, BitVec.or_assoc, emit_out, List.append_assoc]
  split
  · split <;> rfl
  · rfl

/-- Settles O25: the row `WR_SDR`, by the parameter and by mask bit 3. -/
theorem serialWriteStores : Obligations.SerialWriteStores := by
  intro s c v hl
  have row {t : Addr → State} (h : ∀ addr, s.written c addr v (Chip.writeSdr s.cfg c v) = t addr) :
      WriteGives s c 0xC v (.wrSdr c) t :=
    writeGives_of_ordinary hl (decode_wrSdr c · · v) (fun _ => rfl) (fun _ => rfl) h
  refine ⟨fun hr => ?_, fun hr hm => ?_, fun hr hm => ?_⟩
  · exact row fun addr => by rw [written_writeSdr, hr, if_neg Bool.false_ne_true]
  · exact row fun addr => by rw [written_writeSdr, if_pos hr, hm, if_neg Bool.false_ne_true]
  · exact row fun addr => by
      rw [written_writeSdr, if_pos hr, if_pos hm]
      rfl

/-! ### Reset (70_reset_and_hazards.md R270 to R272) -/

/-- Settles O43: the default record, and RESET of either instance. -/
theorem resetRestoresTheRecord : Obligations.ResetRestoresTheRecord := by
  refine ⟨rfl, fun s hl => ?_, fun s hl => ?_⟩
  · refine (exec_pin (i := .reset .one) hl rfl).trans ?_
    simp only [ordinary, mapChip_eq, resetPart_fields, chip_one, show s.chip1.fatal = none from hl]
    rfl
  · refine (exec_pin (i := .reset .two) hl rfl).trans ?_
    simp only [ordinary, mapChip_eq, resetPart_fields, chip_two, show s.chip2.fatal = none from hl]
    rfl

/-- The bytes that the read rows return at reset, offset by offset; no read looks at its address. -/
theorem reset_readRow (c : Inst) (k : BitVec 4) :
    (opRows.find? (rowMatches c (0#5 ++ k))).map (fun r => (ordinary State.reset (r.build c 0 0)).readData) =
      some (([0xFF, 0xFF, 0x00, 0x00, 0xFF, 0xFF, 0xFF, 0xFF, 0x00, 0x00, 0x00, 0x00, 0x00, 0x00, 0x00, 0x00]
        : List Byte)[k.toNat]?) := by
  revert k
  cases c <;> decide

/-- Settles O44: the row of the offset, and its byte. -/
theorem registersAfterReset : Obligations.RegistersAfterReset := by
  intro c m k
  obtain ⟨r, hr, honly, hfind⟩ := exists_readRow c k
  obtain ⟨i, hbuild, hinst, haddr, hsame⟩ := readRow_same hr c
  have hlive : State.reset.live c := by cases c <;> rfl
  have hc : instOf (i (State.reset.regAddr c m k)) = c := (hinst _).trans honly
  have hbyte := reset_readRow c k
  rw [hfind, Option.map_some, hbuild] at hbyte
  refine ⟨i (State.reset.regAddr c m k), _, ?_, exec_ordinary_inPage (by rw [hc]; exact hlive) (haddr _) ?_, ?_⟩
  · rw [decode_readWord hfind, hbuild]
    rfl
  · rw [hc, pageOf_regAddr]
  · rw [hsame State.reset _ 0]
    exact Option.some.inj hbyte

/-! ### Host inputs (R213 to R215) -/

/-- Settles O45: the tables bit by bit. -/
theorem hostKeyMovesOneKey : Obligations.HostKeyMovesOneKey :=
  fun s row column pressed hl =>
    ⟨s.inst1.setKey row column pressed, exec_pin (i := .hostKey row column pressed) hl rfl, rfl, rfl, rfl,
      fun r k => setKey_bits s.inst1 row column pressed r k⟩

/-- Settles O46: the three inputs. -/
theorem hostJoystickAndSerialInputs : Obligations.HostJoystickAndSerialInputs :=
  ⟨fun _ v hl => ⟨exec_pin (i := .hostJoy .one v) hl rfl,
      exec_pin (i := .hostJoy .two v) hl rfl⟩,
    fun _ v hl => exec_pin (i := .hostSer v) hl rfl⟩

end Sys2Proof.Machine
end

section
/-! PROOFS. Rules over all operations: they complete, a stuck instance ignores them, they raise and append but never retract, and they see
and change their own instance alone (60_exceptions.md sections 1 and 4, 20_memory.md sections 4 and 5). -/

namespace Sys2Proof.Machine

/-! ### Completion and the stuck instance -/

/-- Settles O7: an operation is ignored, is fatal, or does what it does ordinarily. -/
theorem everyOperationCompletes : Obligations.EveryOperationCompletes := by
  intro i s
  by_cases hl : s.live (instOf i)
  · by_cases hp : pageFits s i
    · exact ⟨_, exec_ordinary hl hp⟩
    · simp only [pageFits, not_forall] at hp
      obtain ⟨addr, ha, hn⟩ := hp
      exact ⟨_, exec_outOfPage hl ha hn⟩
  · exact ⟨_, exec_stuck i s hl⟩

/-- Settles O9: the stuck instance's equation. -/
theorem fatalInstanceIsStuck : Obligations.FatalInstanceIsStuck :=
  fun i s h => exec_stuck i s h

/-! ### Raising and appending -/

/-- From one record of instance `c` to another: pending bits are added, the line is not lowered, and events other than shadow writes, all of
them the instance's own, are appended. -/
structure Advance (c : Inst) (before after : Chip) : Prop where
  pending : ∃ m, after.pending = before.pending ||| m
  line : ∃ b, after.intLine = (before.intLine || b)
  out : ∃ more, after.out = before.out ++ more ∧ ∀ e ∈ more, mayEmit c e = true ∧ isShadow e = false

theorem Advance.of_eq {c : Inst} {ch ch' : Chip} (hp : ch'.pending = ch.pending) (hl : ch'.intLine = ch.intLine)
    (ho : ch'.out = ch.out) : Advance c ch ch' where
  pending := ⟨0, hp.trans BitVec.or_zero.symm⟩
  line := ⟨false, by rw [hl, Bool.or_false]⟩
  out := ⟨[], by rw [ho, List.append_nil], by simp⟩

theorem Advance.trans {c : Inst} {ch ch' ch'' : Chip} (h : Advance c ch ch') (h' : Advance c ch' ch'') : Advance c ch ch'' := by
  obtain ⟨⟨m, hp⟩, ⟨b, hl⟩, more, ho, hown⟩ := h
  obtain ⟨⟨m', hp'⟩, ⟨b', hl'⟩, more', ho', hown'⟩ := h'
  refine ⟨⟨m ||| m', by rw [hp', hp, BitVec.or_assoc]⟩, ⟨b || b', by rw [hl', hl, Bool.or_assoc]⟩, more ++ more', ?_, ?_⟩
  · rw [ho', ho, List.append_assoc]
  · exact fun e he => (List.mem_append.1 he).elim (hown e) (hown' e)

/-- `LINE=b` is the instance's own event, and no shadow write. -/
theorem lineEvent_own (c : Inst) (b : Bool) : mayEmit c (lineEvent c b) = true ∧ isShadow (lineEvent c b) = false := by
  cases c <;> exact ⟨rfl, rfl⟩

theorem Advance.of_signal {c : Inst} {ch ch' : Chip} {m : Byte} (hp : ch'.pending = ch.pending ||| m) (hl : ch'.intLine = true)
    (ho : ch'.out = ch.out ++ [lineEvent c true]) : Advance c ch ch' where
  pending := ⟨m, hp⟩
  line := ⟨true, by rw [hl, Bool.or_true]⟩
  out := ⟨[lineEvent c true], ho, List.forall_mem_singleton.2 (lineEvent_own c true)⟩

/-- An event of the instance's own, other than a shadow write, appended by an operation on its ports. -/
theorem Advance.of_emit {c : Inst} {ch ch' : Chip} {e : Event} (hp : ch'.pending = ch.pending) (hl : ch'.intLine = ch.intLine)
    (ho : ch'.out = ch.out ++ [e]) (hown : mayEmit c e = true) (hshadow : isShadow e = false) : Advance c ch ch' where
  pending := ⟨0, hp.trans BitVec.or_zero.symm⟩
  line := ⟨false, by rw [hl, Bool.or_false]⟩
  out := ⟨[e], ho, List.forall_mem_singleton.2 ⟨hown, hshadow⟩⟩

theorem raiseAndSignal_advance (c : Inst) (m : Byte) (ch : Chip) : Advance c ch (ch.raiseAndSignal c m) := by
  rw [raiseAndSignal_eq]
  split
  · exact .of_signal (m := m ||| 0x80) (BitVec.or_assoc ..) rfl rfl
  · exact ⟨⟨m, rfl⟩, ⟨false, (Bool.or_false _).symm⟩, [], (List.append_nil _).symm, by simp⟩

theorem writeMask_advance (c : Inst) (v : Byte) (ch : Chip) : Advance c ch (ch.writeMask c v) := by
  rw [writeMask_eq]
  split
  · exact .of_eq rfl rfl rfl
  · exact .of_signal (m := 0x80) rfl rfl rfl

theorem writeSdr_advance (cfg : Config) (c : Inst) (v : Byte) (ch : Chip) : Advance c ch (ch.writeSdr cfg c v) := by
  have hstored : Advance c ch { ch with sdr := v } := .of_eq rfl rfl rfl
  unfold Chip.writeSdr
  split
  · exact hstored.trans (raiseAndSignal_advance ..)
  · exact hstored

theorem todWrite_advance (masks : TodMasks) (f : TodField) (v : Byte) (c : Inst) (ch : Chip) :
    Advance c ch (ch.todWrite masks f v) := by
  rw [todWrite_fields]
  exact .of_eq rfl rfl rfl

theorem todTick_advance (cfg : Config) (c : Inst) (ch : Chip) : Advance c ch (ch.todTick cfg c) := by
  unfold Chip.todTick
  split
  · exact .of_eq rfl rfl rfl
  split
  · refine .trans (ch' := { ch with todDivisor := todReload cfg ch, tod := ch.tod.advance cfg.todHourStyle })
      (.of_eq rfl rfl rfl) ?_
    unfold Chip.alarmCompare
    split
    · exact raiseAndSignal_advance ..
    · exact .of_eq rfl rfl rfl
  · exact .of_eq rfl rfl rfl

theorem update_advance (cfg : Config) (c : Inst) (ch : Chip) : Advance c ch (ch.update cfg) where
  pending := ⟨_, by rw [(update_interrupts cfg c ch).1, BitVec.or_assoc]⟩
  line := ⟨false, (Bool.or_false _).symm⟩
  out := ⟨[], (List.append_nil _).symm, by simp⟩

theorem deliverA_advance (c : Inst) (ch : Chip) : Advance c ch (ch.deliverA c) := by
  unfold Chip.deliverA
  split
  · exact (raiseAndSignal_advance c srcTimerA ch).trans (.of_eq rfl rfl rfl)
  · exact .of_eq rfl rfl rfl

theorem deliverB_advance (cfg : Config) (c : Inst) (ch : Chip) : Advance c ch (ch.deliverB cfg c) := by
  unfold Chip.deliverB
  split
  · split
    · exact (raiseAndSignal_advance c srcTimerB ch).trans (.of_eq rfl rfl rfl)
    · exact .of_eq rfl rfl rfl
  · exact .of_eq rfl rfl rfl

theorem cycle_advance (cfg : Config) (c : Inst) (ch : Chip) : Advance c ch (ch.cycle cfg c) :=
  (update_advance cfg c ch).trans ((deliverA_advance c _).trans (deliverB_advance cfg c _))

theorem afterPortA_advance (s : State) (c : Inst) : Advance c (s.chip c) ((s.afterPortA c).chip c) := by
  cases c
  · exact .of_eq rfl rfl rfl
  · exact .of_emit (e := .bank s.chip2.bankSelect) rfl rfl rfl rfl rfl

theorem afterPortB_advance (s : State) (c : Inst) : Advance c (s.chip c) ((s.afterPortB c).chip c) := by
  cases c
  · rw [State.afterPortB, lightPenCheck_fields]
    dsimp only [chip_one]
    split
    · exact .of_emit (e := .lightPen) rfl rfl rfl rfl rfl
    · exact .of_eq rfl rfl (List.append_nil _)
  · exact .of_eq rfl rfl rfl

/-! ### What an operation appends -/

/-- The shadow write of a bus write (20_memory.md R68); none for any other operation. -/
def shadowOf (i : Instr) : List Event :=
  match writeOf i with
  | some (a, v) => [.shadow a v]
  | none => []

/-- An instance's record with the shadow write of an operation appended. -/
def Chip.shadowed (i : Instr) (ch : Chip) : Chip := { ch with out := ch.out ++ shadowOf i }

/-- The acknowledge and the reset. -/
def Retracts (i : Instr) : Prop := (∃ c addr, i = .rdIcr c addr) ∨ ∃ c, i = .reset c

theorem shadowed_quiet {i : Instr} (h : writeOf i = none) (ch : Chip) : ch.shadowed i = ch := by
  simp only [Chip.shadowed, shadowOf, h, List.append_nil]

theorem Advance.reading {s : State} {c : Inst} {before ch : Chip} (v : Byte) (h : Advance c before ch) :
    Advance c before ((s.reading c v ch).chip c) := by
  rwa [reading_chip_same]

theorem Advance.leaving {s : State} {c : Inst} {before ch : Chip} (h : Advance c before ch) :
    Advance c before ((s.leaving c ch).chip c) := by
  rwa [leaving_chip_same]

/-- A write of port A or direction A: the record stored, then the bank event. -/
theorem portA_advance {s : State} {c : Inst} {before ch : Chip} (h : Advance c before ch) :
    Advance c before (((s.setChip c ch).afterPortA c).noData.chip c) := by
  have := afterPortA_advance (s.setChip c ch) c
  rw [chip_setChip_same] at this
  rw [noData_chip]
  exact h.trans this

/-- A write of port B or direction B: the record stored, then the light-pen check. -/
theorem portB_advance {s : State} {c : Inst} {before ch : Chip} (h : Advance c before ch) :
    Advance c before (((s.setChip c ch).afterPortB c).noData.chip c) := by
  have := afterPortB_advance (s.setChip c ch) c
  rw [chip_setChip_same] at this
  rw [noData_chip]
  exact h.trans this

/-- Any operation but an acknowledge or a reset raises and appends only, after its shadow write. -/
theorem ordinary_advance (s : State) (i : Instr) (hi : ¬ Retracts i) :
    Advance (instOf i) ((s.chip (instOf i)).shadowed i) ((ordinary s i).chip (instOf i)) := by
  cases i
  case rdIcr c addr => exact absurd (.inl ⟨c, addr, rfl⟩) hi
  case reset c => exact absurd (.inr ⟨c, rfl⟩) hi
  case rdPra1 | rdPra2 | rdPrb1 | rdPrb2 | rdDdra | rdDdrb | rdTalo | rdTahi | rdTblo | rdTbhi | rdTod10 | rdTodsec |
      rdTodmin | rdTodhr | rdSdr | rdCra | rdCrb =>
    rw [shadowed_quiet rfl]
    exact .reading _ (.of_eq rfl rfl rfl)
  case wrPra | wrDdra => exact portA_advance (.of_eq rfl rfl rfl)
  case wrPrb | wrDdrb => exact portB_advance (.of_eq rfl rfl rfl)
  case wrTalo | wrTblo | wrTahi | wrTbhi | wrCra | wrCrb => exact .leaving (.of_eq rfl rfl rfl)
  case wrTod10 | wrTodsec | wrTodmin | wrTodhr => exact .leaving (todWrite_advance ..)
  case wrSdr => exact .leaving (writeSdr_advance ..)
  case wrIcr => exact .leaving (writeMask_advance ..)
  case cycle =>
    rw [shadowed_quiet rfl]
    exact .leaving (cycle_advance ..)
  case todTick =>
    rw [shadowed_quiet rfl]
    exact .leaving (todTick_advance ..)
  case hostKey | hostJoy | hostSer =>
    rw [shadowed_quiet rfl]
    exact .of_eq rfl rfl rfl

/-- An operation appends its shadow write, then events of its own instance that are none. -/
theorem ordinary_out (s : State) (i : Instr) :
    ∃ more, ((ordinary s i).chip (instOf i)).out = (s.chip (instOf i)).out ++ (shadowOf i ++ more) ∧
      ∀ e ∈ more, mayEmit (instOf i) e = true ∧ isShadow e = false := by
  by_cases hi : Retracts i
  · obtain ⟨c, addr, rfl⟩ | ⟨c, rfl⟩ := hi
    · refine ⟨[lineEvent c false], ?_, List.forall_mem_singleton.2 (lineEvent_own c false)⟩
      rw [ordinary, instOf, reading_chip_same]
      rfl
    · refine ⟨[lineEvent c false], ?_, List.forall_mem_singleton.2 (lineEvent_own c false)⟩
      rw [ordinary, instOf, noData_chip, resetInputs_chip, chip_mapChip_same]
      rfl
  · obtain ⟨-, -, more, ho, hown⟩ := ordinary_advance s i hi
    exact ⟨more, ho.trans (List.append_assoc ..), hown⟩

/-! ### The other instance -/

/-- Two states agree on what an operation of instance `c` reads: its record and inputs and the parameters; and they have the same inbox. -/
structure SameFor (c : Inst) (s s' : State) : Prop where
  cfg : s.cfg = s'.cfg
  inbox : s.inbox = s'.inbox
  chip : s.chip c = s'.chip c
  inst1 : c = .one → s.inst1 = s'.inst1
  serial : c = .two → s.serialBusLines = s'.serialBusLines

theorem SameFor.symm {c : Inst} {s s' : State} (h : SameFor c s s') : SameFor c s' s :=
  ⟨h.cfg.symm, h.inbox.symm, h.chip.symm, fun hc => (h.inst1 hc).symm, fun hc => (h.serial hc).symm⟩

theorem SameFor.trans {c : Inst} {s s' s'' : State} (h : SameFor c s s') (h' : SameFor c s' s'') : SameFor c s s'' :=
  ⟨h.cfg.trans h'.cfg, h.inbox.trans h'.inbox, h.chip.trans h'.chip, fun hc => (h.inst1 hc).trans (h'.inst1 hc),
    fun hc => (h.serial hc).trans (h'.serial hc)⟩

theorem sameFor_noData (c : Inst) (s : State) : SameFor c s.noData s := ⟨rfl, rfl, noData_chip s c, fun _ => rfl, fun _ => rfl⟩

theorem SameFor.noData {c : Inst} {s s' : State} (h : SameFor c s s') : SameFor c s.noData s'.noData :=
  (sameFor_noData c s).trans (h.trans (sameFor_noData c s').symm)

/-- There are two instances. -/
theorem eq_or_eq_of_ne {c d : Inst} (h : c ≠ d) (e : Inst) : e = c ∨ e = d := by
  cases c <;> cases d <;> cases e <;> simp_all

theorem eq_two_of_ne_one {d : Inst} (h : d ≠ .one) : d = .two :=
  (eq_or_eq_of_ne (show Inst.two ≠ .one by decide) d).resolve_right h

theorem eq_one_of_ne_two {d : Inst} (h : d ≠ .two) : d = .one :=
  (eq_or_eq_of_ne (show Inst.one ≠ .two by decide) d).resolve_right h

section
variable {c d : Inst} (s : State) (hd : d ≠ c)
include hd

theorem sameFor_setChip_ne (ch : Chip) : SameFor d (s.setChip c ch) s :=
  ⟨setChip_cfg .., setChip_inbox .., chip_setChip_ne s ch hd, fun _ => setChip_inst1 .., fun _ => setChip_serial ..⟩

theorem sameFor_leaving_ne (ch : Chip) : SameFor d (s.leaving c ch) s :=
  (sameFor_noData d (s.setChip c ch)).trans (sameFor_setChip_ne s hd ch)

theorem sameFor_reading_ne (v : Byte) (ch : Chip) : SameFor d (s.reading c v ch) s := by
  obtain ⟨hcfg, hinbox, hchip, hinst, hserial⟩ := sameFor_setChip_ne s hd ch
  refine ⟨hcfg, hinbox, ?_, hinst, hserial⟩
  rw [← hchip]
  cases d <;> rfl

theorem sameFor_afterPortA_ne : SameFor d (s.afterPortA c) s := by
  cases c
  · exact ⟨rfl, rfl, rfl, fun _ => rfl, fun _ => rfl⟩
  · exact sameFor_setChip_ne s hd _

theorem sameFor_afterPortB_ne : SameFor d (s.afterPortB c) s := by
  cases c
  · obtain rfl := eq_two_of_ne_one hd
    rw [State.afterPortB, lightPenCheck_fields]
    exact ⟨rfl, rfl, rfl, fun h => (nomatch h), fun _ => rfl⟩
  · exact ⟨rfl, rfl, rfl, fun _ => rfl, fun _ => rfl⟩

theorem sameFor_resetInputs_ne : SameFor d (s.resetInputs c) s := by
  cases c
  · obtain rfl := eq_two_of_ne_one hd
    exact ⟨rfl, rfl, rfl, fun h => (nomatch h), fun _ => rfl⟩
  · obtain rfl := eq_one_of_ne_two hd
    exact ⟨rfl, rfl, rfl, fun _ => rfl, fun h => (nomatch h)⟩

/-- What an operation does ordinarily leaves the other instance as it is. -/
theorem ordinary_frame {i : Instr} (hi : instOf i = c) : SameFor d (ordinary s i) s := by
  subst hi
  cases i
  case rdPra1 | rdPra2 | rdPrb1 | rdPrb2 | rdDdra | rdDdrb | rdTalo | rdTahi | rdTblo | rdTbhi | rdTod10 | rdTodsec |
      rdTodmin | rdTodhr | rdSdr | rdIcr | rdCra | rdCrb =>
    exact sameFor_reading_ne s hd _ _
  case wrTalo | wrTahi | wrTblo | wrTbhi | wrTod10 | wrTodsec | wrTodmin | wrTodhr | wrSdr | wrIcr | wrCra | wrCrb | cycle |
      todTick =>
    exact sameFor_leaving_ne s hd _
  case wrPra | wrDdra =>
    exact (sameFor_noData d _).trans ((sameFor_afterPortA_ne _ hd).trans (sameFor_setChip_ne s hd _))
  case wrPrb | wrDdrb =>
    exact (sameFor_noData d _).trans ((sameFor_afterPortB_ne _ hd).trans (sameFor_setChip_ne s hd _))
  case reset =>
    exact (sameFor_noData d _).trans ((sameFor_resetInputs_ne _ hd).trans (sameFor_setChip_ne s hd _))
  case hostKey | hostJoy =>
    obtain rfl := eq_two_of_ne_one hd
    exact ⟨rfl, rfl, rfl, fun h => (nomatch h), fun _ => rfl⟩
  case hostSer =>
    obtain rfl := eq_one_of_ne_two hd
    exact ⟨rfl, rfl, rfl, fun _ => rfl, fun h => (nomatch h)⟩

end

/-- An operation leaves the other instance as it is. -/
theorem exec_frame {i : Instr} {s t : State} {d : Inst} (hd : d ≠ instOf i) (h : exec i s = .next t) : SameFor d t s := by
  obtain ⟨-, rfl⟩ | ⟨-, -, rfl⟩ | ⟨-, addr, -, -, rfl⟩ := exec_cases h
  · exact sameFor_noData d s
  · exact ordinary_frame s hd rfl
  · exact sameFor_leaving_ne s hd _

theorem otherInst_ne (c : Inst) : otherInst c ≠ c := by cases c <;> decide

/-- Settles O47: the frame of an operation on the other instance. -/
theorem instancesShareNothing : Obligations.InstancesShareNothing := by
  intro i s t h
  have frame := exec_frame (otherInst_ne (instOf i)) h
  refine ⟨frame.chip, fun hi => frame.inst1 ?_, fun hi => frame.serial ?_, frame.cfg, frame.inbox⟩ <;> rw [hi] <;> rfl

/-! ### Settled by what is raised and appended -/

/-- Settles O36: a bit that is set stays set in what only adds bits. -/
theorem onlyAcknowledgeAndResetRetract : Obligations.OnlyAcknowledgeAndResetRetract := by
  intro i s t c h hack hreset
  have same {ch ch' : Chip} (hp : ch'.pending = ch.pending) (hl : ch'.intLine = ch.intLine) :
      ch.pending &&& ~~~ch'.pending = 0 ∧ (ch.intLine = true → ch'.intLine = true) := by
    rw [hp, hl]
    exact ⟨BitVec.and_not_self _, id⟩
  by_cases hc : c = instOf i
  · subst hc
    obtain ⟨-, rfl⟩ | ⟨-, -, rfl⟩ | ⟨-, addr, -, -, rfl⟩ := exec_cases h
    · exact same (by rw [noData_chip]) (by rw [noData_chip])
    · have hi : ¬ Retracts i := by
        rintro (⟨c, addr, rfl⟩ | ⟨c, rfl⟩)
        · exact hack addr rfl
        · exact hreset rfl
      obtain ⟨⟨m, hp⟩, ⟨b, hl⟩, -⟩ := ordinary_advance s i hi
      refine ⟨?_, fun hset => ?_⟩
      · rw [hp]
        apply BitVec.eq_of_getLsbD_eq
        intro j hj
        simp only [Chip.shadowed, BitVec.getLsbD_and, BitVec.getLsbD_not, BitVec.getLsbD_or, hj]
        cases (s.chip (instOf i)).pending.getLsbD j <;> simp
      · rw [hl]
        exact Bool.or_eq_true_iff.2 (.inl hset)
    · exact same (by rw [raiseFatal_eq, leaving_chip_same]) (by rw [raiseFatal_eq, leaving_chip_same])
  · have frame := (exec_frame hc h).chip
    exact same (by rw [frame]) (by rw [frame])

theorem mayEmit_shadowOf (c : Inst) (i : Instr) : ∀ e ∈ shadowOf i, mayEmit c e = true := by
  intro e he
  unfold shadowOf at he
  split at he
  · rw [List.mem_singleton.1 he]
    rfl
  · cases he

/-- Settles O37: the shadow write and the events after it. -/
theorem traceGrowsByOwnEvents : Obligations.TraceGrowsByOwnEvents := by
  intro i s t c h
  by_cases hc : c = instOf i
  · subst hc
    obtain ⟨-, rfl⟩ | ⟨-, -, rfl⟩ | ⟨-, addr, -, -, rfl⟩ := exec_cases h
    · exact ⟨[], by rw [noData_chip, List.append_nil], by simp, fun _ => rfl⟩
    · obtain ⟨more, ho, hown⟩ := ordinary_out s i
      refine ⟨shadowOf i ++ more, ho, fun e he => ?_, fun hne => absurd rfl hne⟩
      exact (List.mem_append.1 he).elim (mayEmit_shadowOf _ i e) fun hmore => (hown e hmore).1
    · exact ⟨[], by rw [raiseFatal_eq, leaving_chip_same, List.append_nil], by simp, fun _ => rfl⟩
  · exact ⟨[], by rw [(exec_frame hc h).chip, List.append_nil], by simp, fun _ => rfl⟩

/-! ### The shadow bank -/

/-- Events that are no shadow writes leave the bank. -/
theorem shadowAt_append_quiet {out more : List Event} (h : ∀ e ∈ more, isShadow e = false) (b : Addr) :
    shadowAt (out ++ more) b = shadowAt out b := by
  induction more generalizing out with
  | nil => rw [List.append_nil]
  | cons e more ih =>
    rw [← List.singleton_append, ← List.append_assoc, ih fun e' he' => h e' (List.mem_cons_of_mem _ he')]
    have he := h e List.mem_cons_self
    cases e with
    | shadow => cases he
    | irq | nmi | bank | lightPen => simp only [shadowAt, List.foldl_append, List.foldl_cons, List.foldl_nil]

/-- A shadow write sets its address. -/
theorem shadowAt_append_shadow (out : List Event) (a b : Addr) (v : Byte) :
    shadowAt (out ++ [.shadow a v]) b = if a = b then some v else shadowAt out b := by
  simp only [shadowAt, List.foldl_append, List.foldl_cons, List.foldl_nil]

/-- A bus write's address is the one it is issued at. -/
theorem busAddr_of_writeOf {i : Instr} {a : Addr} {v : Byte} (h : writeOf i = some (a, v)) : busAddr i = some a := by
  cases i <;> cases h <;> rfl

/-- An operation leaves the bank when it does nothing ordinary that is a bus write. -/
theorem shadowAt_exec_quiet {i : Instr} {s t : State} (h : exec i s = .next t)
    (hq : s.live (instOf i) → pageFits s i → writeOf i = none) (c : Inst) (b : Addr) :
    shadowAt (t.chip c).out b = shadowAt (s.chip c).out b := by
  by_cases hc : c = instOf i
  · subst hc
    obtain ⟨-, rfl⟩ | ⟨hl, hp, rfl⟩ | ⟨-, addr, -, -, rfl⟩ := exec_cases h
    · rw [noData_chip]
    · obtain ⟨more, ho, hown⟩ := ordinary_out s i
      rw [ho, shadowOf, hq hl hp, List.nil_append]
      exact shadowAt_append_quiet (fun e he => (hown e he).2) b
    · rw [raiseFatal_eq, leaving_chip_same]
  · rw [(exec_frame hc h).chip]

/-- Settles O38: the shadow write of a bus write in page, and the operations that have none. -/
theorem shadowBankFrame : Obligations.ShadowBankFrame := by
  refine ⟨fun i s t a v h hw hl hp => ?_, fun i s t h hq => shadowAt_exec_quiet h fun hl hp => ?_⟩
  · rw [exec_ordinary_inPage hl (busAddr_of_writeOf hw) hp] at h
    injection h with h
    obtain ⟨more, ho, hown⟩ := ordinary_out s i
    have hbank (b : Addr) : shadowAt (t.chip (instOf i)).out b =
        if a = b then some v else shadowAt (s.chip (instOf i)).out b := by
      rw [← h, ho, shadowOf, hw, ← List.append_assoc, shadowAt_append_quiet fun e he => (hown e he).2, shadowAt_append_shadow]
    exact ⟨by rw [hbank, if_pos rfl], fun b hb => by rw [hbank, if_neg hb.symm]⟩
  · obtain hnone | hstuck | ⟨a, v, hw, hout⟩ := hq
    · exact hnone
    · exact absurd hl hstuck
    · exact absurd (hp a (busAddr_of_writeOf hw)) hout

/-! ### Commuting operations -/

section
variable {c : Inst} {s s' : State}

theorem SameFor.setChip (h : SameFor c s s') (ch : Chip) : SameFor c (s.setChip c ch) (s'.setChip c ch) where
  cfg := by rw [setChip_cfg, setChip_cfg, h.cfg]
  inbox := by rw [setChip_inbox, setChip_inbox, h.inbox]
  chip := by rw [chip_setChip_same, chip_setChip_same]
  inst1 hc := by rw [setChip_inst1, setChip_inst1, h.inst1 hc]
  serial hc := by rw [setChip_serial, setChip_serial, h.serial hc]

theorem SameFor.leaving (h : SameFor c s s') (ch : Chip) : SameFor c (s.leaving c ch) (s'.leaving c ch) :=
  (h.setChip ch).noData

theorem SameFor.reading (h : SameFor c s s') {v v' : Byte} (ch : Chip) : SameFor c (s.reading c v ch) (s'.reading c v' ch) := by
  obtain ⟨hcfg, hinbox, -, hinst, hserial⟩ := h.setChip ch
  exact ⟨hcfg, hinbox, by rw [reading_chip_same, reading_chip_same], hinst, hserial⟩

theorem SameFor.afterPortA (h : SameFor c s s') : SameFor c (s.afterPortA c) (s'.afterPortA c) := by
  cases c
  · exact h
  · have hchip : s.chip2 = s'.chip2 := h.chip
    have := h.setChip (s.chip2.emit (.bank s.chip2.bankSelect))
    simp only [State.afterPortA, State.bankNotify, mapChip_eq, chip_two, hchip] at this ⊢
    exact this

theorem SameFor.afterPortB (h : SameFor c s s') : SameFor c (s.afterPortB c) (s'.afterPortB c) := by
  cases c
  · have hchip : s.chip1 = s'.chip1 := h.chip
    have hinst : s.inst1 = s'.inst1 := h.inst1 rfl
    simp only [State.afterPortB, lightPenCheck_fields, hchip, hinst, h.cfg]
    exact ⟨rfl, h.inbox, rfl, fun _ => rfl, fun hc => (nomatch hc)⟩
  · exact h

theorem SameFor.resetInputs (h : SameFor c s s') : SameFor c (s.resetInputs c) (s'.resetInputs c) := by
  obtain ⟨hcfg, hinbox, hchip, -, -⟩ := h
  cases c
  · exact ⟨hcfg, hinbox, hchip, fun _ => congrArg (·.resetRecord.inst1) hcfg, fun hc => (nomatch hc)⟩
  · exact ⟨hcfg, hinbox, hchip, fun hc => (nomatch hc), fun _ => congrArg (·.resetRecord.serialBusLines) hcfg⟩

end

/-- What an operation does ordinarily is the same on states that agree for its instance. -/
theorem ordinary_local {i : Instr} {s s' : State} (h : SameFor (instOf i) s s') :
    SameFor (instOf i) (ordinary s i) (ordinary s' i) := by
  have hchip := h.chip
  have hcfg := h.cfg
  cases i
  all_goals simp only [instOf] at h hchip
  case rdPra1 | rdPrb1 =>
    simp only [ordinary, instOf, show s.chip1 = s'.chip1 from hchip]
    exact h.reading _
  case rdPra2 | rdPrb2 =>
    simp only [ordinary, instOf, show s.chip2 = s'.chip2 from hchip]
    exact h.reading _
  case rdDdra | rdDdrb | rdTalo | rdTahi | rdTblo | rdTbhi | rdTod10 | rdTodsec | rdTodmin | rdTodhr | rdSdr | rdIcr | rdCra |
      rdCrb =>
    simp only [ordinary, instOf, hchip]
    exact h.reading _
  case wrPra | wrDdra =>
    simp only [ordinary, instOf, mapChip_eq, hchip]
    exact (h.setChip _).afterPortA.noData
  case wrPrb | wrDdrb =>
    simp only [ordinary, instOf, mapChip_eq, hchip]
    exact (h.setChip _).afterPortB.noData
  case wrTalo | wrTahi | wrTblo | wrTbhi | wrTod10 | wrTodsec | wrTodmin | wrTodhr | wrSdr | wrIcr | wrCra | wrCrb =>
    simp only [ordinary, instOf, State.written, hchip, hcfg]
    exact h.leaving _
  case cycle | todTick =>
    simp only [ordinary, instOf, hchip, hcfg]
    exact h.leaving _
  case reset =>
    simp only [ordinary, instOf, mapChip_eq, hchip, hcfg]
    exact (h.setChip _).resetInputs.noData
  case hostKey | hostJoy =>
    simp only [ordinary, instOf, h.inst1 rfl]
    exact ⟨h.cfg, h.inbox, h.chip, fun _ => rfl, fun hc => (nomatch hc)⟩
  case hostSer => exact ⟨h.cfg, h.inbox, h.chip, fun hc => (nomatch hc), fun _ => rfl⟩

/-- An operation does the same on states that agree for its instance. -/
theorem exec_local {i : Instr} {s s' t t' : State} (h : SameFor (instOf i) s s') (ht : exec i s = .next t)
    (ht' : exec i s' = .next t') : SameFor (instOf i) t t' := by
  have hlive : s'.live (instOf i) ↔ s.live (instOf i) := by rw [State.live, State.live, h.chip]
  have hpage : s'.pageByte (instOf i) = s.pageByte (instOf i) := by rw [State.pageByte, State.pageByte, h.cfg]
  obtain ⟨hl, rfl⟩ | ⟨hl, hp, rfl⟩ | ⟨hl, addr, ha, hp, rfl⟩ := exec_cases ht
  · rw [exec_stuck i s' (hlive.not.2 hl)] at ht'
    injection ht' with ht'
    exact ht' ▸ h.noData
  · rw [exec_ordinary (hlive.2 hl) fun a ha => (hp a ha).trans hpage.symm] at ht'
    injection ht' with ht'
    exact ht' ▸ ordinary_local h
  · rw [exec_outOfPage (hlive.2 hl) ha fun he => hp (he.trans hpage)] at ht'
    injection ht' with ht'
    rw [← ht', raiseFatal_eq, raiseFatal_eq, h.chip]
    exact h.leaving _

/-- States that agree for both instances are one but for the byte returned last. -/
theorem eq_of_sameFor {c d : Inst} {t u : State} (hcd : c ≠ d) (hc : SameFor c t u) (hd : SameFor d t u) :
    { t with readData := none } = { u with readData := none } := by
  have both (e : Inst) : SameFor e t u := by
    obtain rfl | rfl := eq_or_eq_of_ne hcd e
    · exact hc
    · exact hd
  obtain ⟨hcfg, hinbox, hchip1, hinst, -⟩ := both .one
  obtain ⟨-, -, hchip2, -, hserial⟩ := both .two
  simp only [hcfg, hinbox, show t.chip1 = u.chip1 from hchip1, show t.chip2 = u.chip2 from hchip2, hinst rfl, hserial rfl]

/-- Settles O48: each operation does on its instance what it would do first, and leaves the other's part (`exec_local`, `exec_frame`). -/
theorem operationsOnDifferentInstancesCommute : Obligations.OperationsOnDifferentInstancesCommute := by
  intro i j s hij
  obtain ⟨si, hsi⟩ := everyOperationCompletes i s
  obtain ⟨t, ht⟩ := everyOperationCompletes j si
  obtain ⟨sj, hsj⟩ := everyOperationCompletes j s
  obtain ⟨u, hu⟩ := everyOperationCompletes i sj
  refine ⟨t, u, (runOps_cons hsi).trans (runOps_singleton ht), (runOps_cons hsj).trans (runOps_singleton hu), ?_⟩
  have onI : SameFor (instOf i) t u := (exec_frame hij ht).trans (exec_local (exec_frame hij hsj).symm hsi hu)
  have onJ : SameFor (instOf j) t u := (exec_local (exec_frame hij.symm hsi) ht hsj).trans (exec_frame hij.symm hu).symm
  exact eq_of_sameFor hij onI onJ

end Sys2Proof.Machine
end

section
/-! PROOFS. The invariant of the states between operations (`StateInv`): the reset state meets it, and every step keeps it, shown first for
the changes an operation makes to one record and then operation by operation. -/

namespace Sys2Proof.Machine

/-! ### Bytes -/

theorem or_and_eq_zero {x y k : Byte} (hx : x &&& k = 0) (hy : y &&& k = 0) : (x ||| y) &&& k = 0 := by
  rw [BitVec.and_or_distrib_right, hx, hy]
  rfl

theorem and_and_eq_zero (x : Byte) {y k : Byte} (h : y &&& k = 0) : (x &&& y) &&& k = 0 := by
  rw [BitVec.and_assoc, h]
  exact BitVec.and_zero

theorem and_and_eq_zero_left {x k : Byte} (y : Byte) (h : x &&& k = 0) : (x &&& y) &&& k = 0 := by
  rw [BitVec.and_comm x y]
  exact and_and_eq_zero y h

/-! ### The clock's format -/

theorem nextDeciseconds_format (v : Byte) : (nextDeciseconds v).1 &&& 0xF0 = 0 := by
  have digits : ∀ n : Fin 10, BitVec.ofNat 8 n.val &&& 0xF0 = 0 := by decide
  rw [nextDeciseconds_eq]
  split
  · rfl
  · exact digits ⟨v.toNat % 16 + 1, by omega⟩

theorem nextSixty_format (v : Byte) : (nextSixty v).1 &&& 0x80 = 0 := by
  have sixties : ∀ n : Fin 0x60, BitVec.ofNat 8 n.val &&& 0x80 = 0 := by decide
  rw [nextSixty_eq]
  split
  · rfl
  · exact sixties ⟨sixtyPlusOne v, by omega⟩

/-- A flag over hours up to 0x12 leaves bits 6:5 zero. -/
theorem withPmFlag_format (pm : Bool) {h : Nat} (hh : h ≤ 0x12) : withPmFlag pm h &&& 0x60 = 0 := by
  have hours : ∀ pm : Bool, ∀ n : Fin 0x13, withPmFlag pm n.val &&& 0x60 = 0 := by decide
  exact hours pm ⟨h, by omega⟩

theorem nextHourZero_format (v : Byte) : nextHourZero v &&& 0x60 = 0 := by
  rw [nextHourZero_eq]
  split
  · exact withPmFlag_format _ (by omega)
  · exact withPmFlag_format _ (by omega)

theorem nextHour_format (style : HourStyle) (v : Byte) : nextHour style v &&& 0x60 = 0 := by
  cases style
  · exact nextHourZero_format v
  · obtain h | h | h | h := nextHourOne_cases v <;> rw [nextHour, h]
    · exact withPmFlag_format _ (by omega)
    · exact withPmFlag_format _ (by omega)
    · exact nextHourZero_format v
    · exact and_and_eq_zero _ rfl

theorem advance_format (style : HourStyle) {t : TodTime} (h : todFormat t) : todFormat (t.advance style) := by
  obtain ⟨hh, hm, hs, -⟩ := h
  have hd := nextDeciseconds_format t.deciseconds
  unfold TodTime.advance
  dsimp only
  split
  · split
    · split
      · exact ⟨nextHour_format style _, nextSixty_format _, nextSixty_format _, hd⟩
      · exact ⟨hh, nextSixty_format _, nextSixty_format _, hd⟩
    · exact ⟨hh, hm, nextSixty_format _, hd⟩
  · exact ⟨hh, hm, hs, hd⟩

/-- A masked write keeps the format when the masks do. -/
theorem put_format {masks : TodMasks} {t : TodTime} (f : TodField) (v : Byte)
    (hmasks : masks.hours &&& 0x60 = 0 ∧ masks.minutes &&& 0x80 = 0 ∧ masks.seconds &&& 0x80 = 0 ∧ masks.deciseconds &&& 0xF0 = 0)
    (h : todFormat t) : todFormat (t.put f (v &&& todWriteMask masks f)) := by
  obtain ⟨hh, hm, hs, hd⟩ := h
  obtain ⟨mh, mm, ms, md⟩ := hmasks
  cases f
  · exact ⟨hh, hm, hs, and_and_eq_zero v md⟩
  · exact ⟨hh, hm, and_and_eq_zero v ms, hd⟩
  · exact ⟨hh, and_and_eq_zero v mm, hs, hd⟩
  · exact ⟨and_and_eq_zero v mh, hm, hs, hd⟩

/-! ### Changes of one record that keep its invariant -/

section
variable {cfg : Config} {ch ch' : Chip}

/-- The invariant looks at timers, mask, `pending`, line, clock and alarm only. -/
theorem ChipInv.of_eq (h : ChipInv cfg ch) (hA : ch'.timerA = ch.timerA) (hB : ch'.timerB = ch.timerB)
    (hm : ch'.mask = ch.mask) (hp : ch'.pending = ch.pending) (hl : ch'.intLine = ch.intLine) (ht : ch'.tod = ch.tod)
    (ha : ch'.alarm = ch.alarm) : ChipInv cfg ch' where
  mask_top := by rw [hm]; exact h.mask_top
  pending_spare := by rw [hp]; exact h.pending_spare
  timerA_no_cascade := by rw [hA]; exact h.timerA_no_cascade
  timerB_one_input := by rw [hB]; exact h.timerB_one_input
  timerA_delivered := by rw [hA]; exact h.timerA_delivered
  timerB_delivered := by rw [hB]; exact h.timerB_delivered
  line_is_summary := by rw [hl, hp]; exact h.line_is_summary
  summary_law := by rw [hm, hp]; exact h.summary_law
  tod_format := by rw [ht]; exact h.tod_format
  alarm_format := by rw [ha]; exact h.alarm_format
  timerA_strobe := by rw [hA]; exact h.timerA_strobe
  timerB_strobe := by rw [hB]; exact h.timerB_strobe

theorem ChipInv.setTimerA (h : ChipInv cfg ch) {t : Timer} (hcascade : t.countsOtherTimerUnderflow = false)
    (hdelivered : t.interruptPendingNextCycle = false) (hstrobe : cfg.controlKeepsForceLoad = false → t.control &&& 0x10 = 0) :
    ChipInv cfg { ch with timerA := t } :=
  { h with timerA_no_cascade := hcascade, timerA_delivered := hdelivered, timerA_strobe := hstrobe }

theorem ChipInv.setTimerB (h : ChipInv cfg ch) {t : Timer} (hone : (t.countsSystemClock && t.countsOtherTimerUnderflow) = false)
    (hdelivered : t.interruptPendingNextCycle = false) (hstrobe : cfg.controlKeepsForceLoad = false → t.control &&& 0x10 = 0) :
    ChipInv cfg { ch with timerB := t } :=
  { h with timerB_one_input := hone, timerB_delivered := hdelivered, timerB_strobe := hstrobe }

/-- A change of `pending` and the line: the summary bit is the line's level, and without it no enabled source is pending. -/
theorem ChipInv.setInterrupts (h : ChipInv cfg ch) {p : Byte} {l : Bool} (hspare : p &&& 0x60 = 0) (hline : l = p.getLsbD 7)
    (hlaw : cfg.timerBDelivery = true → p.getLsbD 7 = false → p &&& ch.mask &&& 0x1F = 0) :
    ChipInv cfg { ch with pending := p, intLine := l } :=
  { h with
    pending_spare := hspare
    line_is_summary := hline
    summary_law := fun hdelivery hp => by
      by_contra hbit
      exact hp (hlaw hdelivery (Bool.not_eq_true _ ▸ hbit)) }

/-- Without the summary bit no enabled source is pending. -/
theorem ChipInv.no_enabled (h : ChipInv cfg ch) (hdelivery : cfg.timerBDelivery = true) (hbit : ch.pending.getLsbD 7 = false) :
    ch.pending &&& ch.mask &&& 0x1F = 0 := by
  by_contra hp
  exact Bool.false_ne_true (hbit.symm.trans (h.summary_law hdelivery hp))

/-- Pending bits that are not enabled change nothing in the summary law. -/
theorem or_masked_eq_zero {p m mask : Byte} (hp : p &&& mask &&& 0x1F = 0) (hm : mask &&& m = 0) :
    (p ||| m) &&& mask &&& 0x1F = 0 := by
  rw [BitVec.and_or_distrib_right, BitVec.and_comm m, hm]
  exact or_and_eq_zero hp rfl

theorem disabled_iff (ch : Chip) (m : Byte) : ch.enabled m = false ↔ ch.mask &&& m = 0 := by
  rw [← Bool.not_eq_true, enabled_iff, not_not]

/-- Raising a source of the low five bits. -/
theorem ChipInv.raiseAndSignal (h : ChipInv cfg ch) (c : Inst) {m : Byte} (hspare : m &&& 0x60 = 0) (htop : m.getLsbD 7 = false) :
    ChipInv cfg (ch.raiseAndSignal c m) := by
  rw [raiseAndSignal_eq]
  have hpending : (ch.pending ||| m) &&& 0x60 = 0 := or_and_eq_zero h.pending_spare hspare
  cases henabled : ch.enabled m
  · refine (h.setInterrupts (p := ch.pending ||| m) (l := ch.intLine) hpending ?_ fun hdelivery hbit => ?_).of_eq
      rfl rfl rfl rfl rfl rfl rfl
    · rw [h.line_is_summary, BitVec.getLsbD_or, htop, Bool.or_false]
    · rw [BitVec.getLsbD_or, htop, Bool.or_false] at hbit
      exact or_masked_eq_zero (h.no_enabled hdelivery hbit) ((disabled_iff ch m).1 henabled)
  · have hset : (ch.pending ||| m ||| 0x80).getLsbD 7 = true := by
      rw [BitVec.getLsbD_or]
      exact Bool.or_true _
    exact (h.setInterrupts (p := ch.pending ||| m ||| 0x80) (l := true) (or_and_eq_zero hpending rfl) hset.symm
      fun _ hbit => absurd (hbit.symm.trans hset) Bool.false_ne_true).of_eq rfl rfl rfl rfl rfl rfl rfl

theorem maskAfter_top {mask : Byte} (v : Byte) (h : mask &&& 0x80 = 0) : maskAfter mask v &&& 0x80 = 0 := by
  unfold maskAfter
  split
  · exact or_and_eq_zero h (and_and_eq_zero v rfl)
  · exact and_and_eq_zero_left _ h

theorem ChipInv.writeMask (h : ChipInv cfg ch) (c : Inst) (v : Byte) : ChipInv cfg (ch.writeMask c v) := by
  rw [writeMask_eq]
  by_cases hquiet : ch.pending &&& maskAfter ch.mask v &&& 0x1F = 0
  · rw [if_pos hquiet]
    exact { h with mask_top := maskAfter_top v h.mask_top, summary_law := fun _ hp => absurd hquiet hp }
  · rw [if_neg hquiet]
    have hset : (ch.pending ||| 0x80).getLsbD 7 = true := by
      rw [BitVec.getLsbD_or]
      exact Bool.or_true _
    exact { h with
      mask_top := maskAfter_top v h.mask_top
      pending_spare := or_and_eq_zero h.pending_spare rfl
      line_is_summary := hset.symm
      summary_law := fun _ _ => hset }

theorem ChipInv.acknowledge (h : ChipInv cfg ch) (c : Inst) : ChipInv cfg (ch.acknowledge c) :=
  (h.setInterrupts (p := 0x00) (l := false) rfl rfl fun _ _ => and_and_eq_zero_left _ rfl).of_eq rfl rfl rfl rfl rfl rfl rfl

theorem ChipInv.writeSdr (h : ChipInv cfg ch) (c : Inst) (v : Byte) : ChipInv cfg (ch.writeSdr cfg c v) := by
  have hstored : ChipInv cfg { ch with sdr := v } := h.of_eq rfl rfl rfl rfl rfl rfl rfl
  unfold Chip.writeSdr
  split
  · exact hstored.raiseAndSignal c rfl rfl
  · exact hstored

theorem ChipInv.todWrite (h : ChipInv cfg ch) (hcfg : ConfigInv cfg) (f : TodField) (v : Byte) :
    ChipInv cfg (ch.todWrite cfg.todWriteMasks f v) := by
  unfold Chip.todWrite
  split
  · exact { h with alarm_format := put_format f v hcfg.masks_format h.alarm_format }
  · exact { h with tod_format := put_format f v hcfg.masks_format h.tod_format }

theorem ChipInv.todTick (h : ChipInv cfg ch) (c : Inst) : ChipInv cfg (ch.todTick cfg c) := by
  unfold Chip.todTick
  split
  · exact h
  split
  · have hadvanced : ChipInv cfg { ch with todDivisor := todReload cfg ch, tod := ch.tod.advance cfg.todHourStyle } :=
      { h with tod_format := advance_format _ h.tod_format }
    unfold Chip.alarmCompare
    split
    · exact hadvanced.raiseAndSignal c rfl rfl
    · exact hadvanced
  · exact h.of_eq rfl rfl rfl rfl rfl rfl rfl

/-! ### The cycle -/

/-- The state action changes the effective byte at most by its run bit. -/
theorem actedTimer_control (opt : CountStopUnderflow) (active : Bool) (t : Timer) :
    (actedTimer opt active t).control = t.control ∨ (actedTimer opt active t).control = t.control &&& 0xFE := by
  have fired (u : Timer) : (firedTimer u).control = u.control ∨ (firedTimer u).control = u.control &&& 0xFE := by
    unfold firedTimer
    split
    · exact .inr rfl
    · exact .inl rfl
  unfold actedTimer
  cases t.state <;> dsimp only
  case stop | waitCount | loadStop | loadCount => exact .inl rfl
  case loadWaitCount =>
    split
    · exact fired _
    · exact .inl rfl
  case count =>
    split
    · exact .inl rfl
    split
    · exact fired _
    · exact .inl rfl
  case countStop =>
    split
    · exact .inl rfl
    split
    · cases opt
      · exact fired _
      · exact fired _
      · exact .inl rfl
    · exact .inl rfl

/-- The idle step puts no force-load bit into the effective byte under the default parameter (40_timer.md R118). -/
theorem idleStep_strobe {t : Timer} (hkeeps : cfg.controlKeepsForceLoad = false) (h : t.control &&& 0x10 = 0) :
    (t.idleStep cfg).control &&& 0x10 = 0 := by
  unfold Timer.idleStep
  split
  · simp only [appliedControl, hkeeps, Bool.false_eq_true, if_false]
    exact and_and_eq_zero _ rfl
  · exact h

/-- What the invariant asks of a timer after a cycle: its inputs as before, its flag delivered, no force-load bit. -/
theorem cycle_timer_inv (c : Inst) (w : Which)
    (hstrobe : cfg.controlKeepsForceLoad = false → (ch.timer w).control &&& 0x10 = 0) :
    ((ch.cycle cfg c).timer w).countsSystemClock = (ch.timer w).countsSystemClock ∧
    ((ch.cycle cfg c).timer w).countsOtherTimerUnderflow = (ch.timer w).countsOtherTimerUnderflow ∧
    ((ch.cycle cfg c).timer w).interruptPendingNextCycle = false ∧
    (cfg.controlKeepsForceLoad = false → ((ch.cycle cfg c).timer w).control &&& 0x10 = 0) := by
  rw [cycle_timer]
  generalize inputActive w (ch.timer w) (ch.cycle cfg c) = active
  obtain ⟨-, -, -, hclock, hcascade, -, hflag⟩ := idleStep_frame cfg (actedTimer cfg.countStopUnderflow active (ch.timer w))
  obtain ⟨-, -, hclock', hcascade'⟩ := actedTimer_frame cfg.countStopUnderflow active (ch.timer w)
  refine ⟨hclock.trans hclock', hcascade.trans hcascade', hflag.trans (actedTimer_undelivered ..), fun hkeeps => ?_⟩
  refine idleStep_strobe hkeeps ?_
  obtain hcontrol | hcontrol := actedTimer_control cfg.countStopUnderflow active (ch.timer w) <;> rw [hcontrol]
  · exact hstrobe hkeeps
  · exact and_and_eq_zero_left _ (hstrobe hkeeps)

/-- A fired source that is not told of is not enabled (timer B's, when it is delivered at all). -/
theorem masked_of_untold {fires : Bool} {m : Byte} (h : (fires && ch.enabled m) = false) :
    ch.mask &&& (if fires then m else 0) = 0 := by
  cases fires
  · exact BitVec.and_zero
  · exact (disabled_iff ch m).1 h

/-- A fired source of the low five bits sets none of bits 7:5. -/
theorem firedSource_bits (fires : Bool) {m : Byte} (hspare : m &&& 0x60 = 0) (htop : m.getLsbD 7 = false) :
    (if fires then m else 0) &&& 0x60 = 0 ∧ (if fires then m else 0).getLsbD 7 = false := by
  cases fires
  · rw [if_neg Bool.false_ne_true]
    exact ⟨BitVec.zero_and, BitVec.getLsbD_zero⟩
  · exact ⟨hspare, htop⟩

theorem ChipInv.cycle (h : ChipInv cfg ch) (c : Inst) : ChipInv cfg (ch.cycle cfg c) := by
  obtain ⟨hp, hl, -⟩ := cycle_interrupts (cfg := cfg) c h.timerA_delivered h.timerB_delivered
  obtain ⟨hspareA, htopA⟩ := firedSource_bits (ch.firesInCycle cfg c .a) (m := 0x01) rfl rfl
  obtain ⟨hspareB, htopB⟩ := firedSource_bits (ch.firesInCycle cfg c .b) (m := 0x02) rfl rfl
  have hinterrupts := h.setInterrupts (p := (ch.cycle cfg c).pending) (l := (ch.cycle cfg c).intLine) ?spare ?line ?law
  case spare =>
    rw [hp]
    refine or_and_eq_zero (or_and_eq_zero (or_and_eq_zero h.pending_spare hspareA) hspareB) ?_
    split <;> rfl
  case line =>
    rw [hl, hp, h.line_is_summary, BitVec.getLsbD_or, BitVec.getLsbD_or, BitVec.getLsbD_or, htopA, htopB, Bool.or_false,
      Bool.or_false, Bool.or_assoc]
    cases ch.tellsA cfg c || ch.tellsB cfg c <;> rfl
  case law =>
    intro hdelivery hbit
    rw [hp, BitVec.getLsbD_or, BitVec.getLsbD_or, BitVec.getLsbD_or, htopA, htopB, Bool.or_false, Bool.or_false,
      Bool.or_eq_false_iff] at hbit
    obtain ⟨hbefore, hsummary⟩ := hbit
    have huntold : (ch.tellsA cfg c || ch.tellsB cfg c) = false := by
      cases htold : ch.tellsA cfg c || ch.tellsB cfg c
      · rfl
      · rw [htold] at hsummary
        cases hsummary
    obtain ⟨hA, hB⟩ := Bool.or_eq_false_iff.1 huntold
    rw [Chip.tellsB, hdelivery, Bool.true_and] at hB
    rw [hp, huntold]
    exact or_masked_eq_zero (or_masked_eq_zero (or_masked_eq_zero (h.no_enabled hdelivery hbefore) (masked_of_untold hA))
      (masked_of_untold hB)) BitVec.and_zero
  obtain ⟨-, hcascadeA, hflagA, hstrobeA⟩ := cycle_timer_inv (ch := ch) c .a h.timerA_strobe
  obtain ⟨hclockB, hcascadeB, hflagB, hstrobeB⟩ := cycle_timer_inv (ch := ch) c .b h.timerB_strobe
  have htimers := (hinterrupts.setTimerA (hcascadeA.trans h.timerA_no_cascade) hflagA hstrobeA).setTimerB
    ((congrArg₂ and hclockB hcascadeB).trans h.timerB_one_input) hflagB hstrobeB
  rw [cycle_frame]
  exact htimers.of_eq rfl rfl rfl rfl rfl rfl rfl

end

/-! ### Operations -/

section
variable {s : State}

theorem StateInv.chip_inv (h : StateInv s) (c : Inst) : ChipInv s.cfg (s.chip c) := by
  cases c
  · exact h.chip1_inv
  · exact h.chip2_inv

theorem StateInv.noData (h : StateInv s) : StateInv s.noData :=
  ⟨h.cfg_inv, h.chip1_inv, h.chip2_inv, h.keys_transposed, h.light_pen_observed⟩

theorem StateInv.setInbox (h : StateInv s) (rest : List Request) : StateInv { s with inbox := rest } :=
  ⟨h.cfg_inv, h.chip1_inv, h.chip2_inv, h.keys_transposed, h.light_pen_observed⟩

/-- A record put in place of one whose port B drives the same pins. -/
theorem StateInv.setChip (h : StateInv s) {c : Inst} {ch : Chip} (hch : ChipInv s.cfg ch)
    (hport : ch.portB = (s.chip c).portB) (hdir : ch.directionB = (s.chip c).directionB) : StateInv (s.setChip c ch) := by
  cases c
  · refine ⟨h.cfg_inv, hch, h.chip2_inv, h.keys_transposed, ?_⟩
    have := h.light_pen_observed
    rw [chip_one] at hport hdir
    rw [lightPenObserved, ← hport, ← hdir] at this
    exact this
  · exact ⟨h.cfg_inv, h.chip1_inv, hch, h.keys_transposed, h.light_pen_observed⟩

theorem StateInv.leaving (h : StateInv s) {c : Inst} {ch : Chip} (hch : ChipInv s.cfg ch) (hport : ch.portB = (s.chip c).portB)
    (hdir : ch.directionB = (s.chip c).directionB) : StateInv (s.leaving c ch) :=
  (h.setChip hch hport hdir).noData

theorem StateInv.reading (h : StateInv s) {c : Inst} {ch : Chip} (v : Byte) (hch : ChipInv s.cfg ch)
    (hport : ch.portB = (s.chip c).portB) (hdir : ch.directionB = (s.chip c).directionB) : StateInv (s.reading c v ch) := by
  obtain ⟨hcfg, h1, h2, hkeys, hpen⟩ := h.setChip hch hport hdir
  exact ⟨hcfg, h1, h2, hkeys, hpen⟩

/-- The record after the shadow write of a bus write. -/
theorem StateInv.shadowed (h : StateInv s) (c : Inst) (addr : Addr) (v : Byte) :
    ChipInv s.cfg ((s.chip c).emit (.shadow addr v)) :=
  (h.chip_inv c).of_eq rfl rfl rfl rfl rfl rfl rfl

/-- A write of port A or direction A, whose bank event touches nothing else. -/
theorem StateInv.afterPortA (h : StateInv s) (c : Inst) : StateInv (s.afterPortA c) := by
  cases c
  · exact h
  · exact h.setChip (c := .two) (h.chip2_inv.of_eq rfl rfl rfl rfl rfl rfl rfl) rfl rfl

/-- A write of port B or direction B: on instance 1 the light-pen check observes the new pins (43_register_file.md R196). -/
theorem StateInv.afterPortB (h : StateInv s) {c : Inst} {ch : Chip} (hch : ChipInv s.cfg ch) :
    StateInv ((s.setChip c ch).afterPortB c) := by
  cases c
  · rw [State.afterPortB, lightPenCheck_fields]
    exact ⟨h.cfg_inv, hch.of_eq rfl rfl rfl rfl rfl rfl rfl, h.chip2_inv, h.keys_transposed, rfl⟩
  · exact ⟨h.cfg_inv, h.chip1_inv, hch, h.keys_transposed, h.light_pen_observed⟩

/-- RESET leaves the reset record, of which the parameters' invariant speaks. -/
theorem StateInv.reset (h : StateInv s) (c : Inst) : StateInv ((s.mapChip c (Chip.resetPart s.cfg c)).resetInputs c) := by
  have hch : ChipInv s.cfg ((s.chip c).resetPart s.cfg c) := h.cfg_inv.reset_chip.of_eq rfl rfl rfl rfl rfl rfl rfl
  cases c
  · exact ⟨h.cfg_inv, hch, h.chip2_inv, h.cfg_inv.reset_keys, h.cfg_inv.reset_light_pen⟩
  · exact ⟨h.cfg_inv, h.chip1_inv, hch, h.keys_transposed, h.light_pen_observed⟩

/-- A key moved in both tables keeps them transposes. -/
theorem setKey_transposed {x : Instance1} (row column : Fin 8) (pressed : Bool) (h : keysTransposed x) :
    keysTransposed (x.setKey row column pressed) := by
  intro r k
  obtain ⟨hkeys, hreverse⟩ := setKey_bits x row column pressed r k
  rw [hkeys, hreverse, h r k]

end

/-- What an operation does on a live instance, in its page, keeps the invariant. -/
theorem ordinary_inv {s : State} (h : StateInv s) (i : Instr) : StateInv (ordinary s i) := by
  cases i
  case rdPra1 | rdPrb1 => exact h.reading _ h.chip1_inv rfl rfl
  case rdPra2 | rdPrb2 => exact h.reading _ h.chip2_inv rfl rfl
  case rdDdra c _ | rdDdrb c _ | rdTalo c _ | rdTahi c _ | rdTblo c _ | rdTbhi c _ | rdTodsec c _ | rdTodmin c _ | rdSdr c _ |
      rdCra c _ | rdCrb c _ =>
    exact h.reading _ (h.chip_inv c) rfl rfl
  case rdTod10 c _ | rdTodhr c _ => exact h.reading _ ((h.chip_inv c).of_eq rfl rfl rfl rfl rfl rfl rfl) rfl rfl
  case rdIcr c _ => exact h.reading _ ((h.chip_inv c).acknowledge c) rfl rfl
  case wrPra c a v =>
    have hch : ChipInv s.cfg { (s.chip c).emit (.shadow a v) with portA := v } :=
      (h.chip_inv c).of_eq rfl rfl rfl rfl rfl rfl rfl
    exact ((h.setChip hch rfl rfl).afterPortA c).noData
  case wrDdra c a v =>
    have hch : ChipInv s.cfg { (s.chip c).emit (.shadow a v) with directionA := v } :=
      (h.chip_inv c).of_eq rfl rfl rfl rfl rfl rfl rfl
    exact ((h.setChip hch rfl rfl).afterPortA c).noData
  case wrPrb c a v =>
    have hch : ChipInv s.cfg { (s.chip c).emit (.shadow a v) with portB := v } :=
      (h.chip_inv c).of_eq rfl rfl rfl rfl rfl rfl rfl
    exact (h.afterPortB hch).noData
  case wrDdrb c a v =>
    have hch : ChipInv s.cfg { (s.chip c).emit (.shadow a v) with directionB := v } :=
      (h.chip_inv c).of_eq rfl rfl rfl rfl rfl rfl rfl
    exact (h.afterPortB hch).noData
  case wrTalo c a v =>
    have hch := h.shadowed c a v
    exact h.leaving (hch.setTimerA hch.timerA_no_cascade hch.timerA_delivered hch.timerA_strobe) rfl rfl
  case wrTblo c a v =>
    have hch := h.shadowed c a v
    exact h.leaving (hch.setTimerB hch.timerB_one_input hch.timerB_delivered hch.timerB_strobe) rfl rfl
  case wrTahi c a v =>
    have hch := h.shadowed c a v
    refine h.leaving ?_ rfl rfl
    beta_reduce
    rw [writeLatchHi_fields]
    exact hch.setTimerA hch.timerA_no_cascade hch.timerA_delivered hch.timerA_strobe
  case wrTbhi c a v =>
    have hch := h.shadowed c a v
    refine h.leaving ?_ rfl rfl
    beta_reduce
    rw [writeLatchHi_fields]
    exact hch.setTimerB hch.timerB_one_input hch.timerB_delivered hch.timerB_strobe
  case wrCra c a v =>
    have hch := h.shadowed c a v
    exact h.leaving (hch.setTimerA rfl hch.timerA_delivered hch.timerA_strobe) rfl rfl
  case wrCrb c a v =>
    have hch := h.shadowed c a v
    refine h.leaving ?_ rfl rfl
    beta_reduce
    rw [writeControlB_eq]
    refine hch.setTimerB ?_ hch.timerB_delivered hch.timerB_strobe
    dsimp only
    cases v.getLsbD 6
    · exact Bool.and_false _
    · rfl
  case wrTod10 c a v | wrTodsec c a v | wrTodmin c a v | wrTodhr c a v =>
    refine h.leaving ((h.shadowed c a v).todWrite h.cfg_inv _ v) ?_ ?_ <;> rw [todWrite_fields] <;> rfl
  case wrSdr c a v => refine h.leaving ((h.shadowed c a v).writeSdr c v) ?_ ?_ <;> rw [writeSdr_fields] <;> rfl
  case wrIcr c a v => refine h.leaving ((h.shadowed c a v).writeMask c v) ?_ ?_ <;> rw [writeMask_fields] <;> rfl
  case cycle c => refine h.leaving ((h.chip_inv c).cycle c) ?_ ?_ <;> rw [cycle_frame]
  case todTick c => refine h.leaving ((h.chip_inv c).todTick c) ?_ ?_ <;> rw [todTick_fields]
  case reset c => exact (h.reset c).noData
  case hostKey row column pressed =>
    exact ⟨h.cfg_inv, h.chip1_inv, h.chip2_inv, setKey_transposed row column pressed h.keys_transposed, h.light_pen_observed⟩
  case hostJoy n _ =>
    cases n <;> exact ⟨h.cfg_inv, h.chip1_inv, h.chip2_inv, h.keys_transposed, h.light_pen_observed⟩
  case hostSer => exact ⟨h.cfg_inv, h.chip1_inv, h.chip2_inv, h.keys_transposed, h.light_pen_observed⟩

/-- Every operation keeps the invariant: ignored, ordinary or fatal. -/
theorem exec_inv {i : Instr} {s t : State} (h : StateInv s) (ht : exec i s = .next t) : StateInv t := by
  obtain ⟨-, rfl⟩ | ⟨-, -, rfl⟩ | ⟨-, addr, -, -, rfl⟩ := exec_cases ht
  · exact h.noData
  · exact ordinary_inv h i
  · exact h.leaving ((h.chip_inv (instOf i)).of_eq rfl rfl rfl rfl rfl rfl rfl) rfl rfl

/-- Settles O49: a step is an operation on the state with its request taken off, or none. -/
theorem stepKeepsInvariant : Obligations.StepKeepsInvariant := by
  intro s t h hstep
  cases hinbox : s.inbox with
  | nil =>
    rw [step_empty hinbox] at hstep
    injection hstep with hstep
    exact hstep ▸ h
  | cons r rest =>
    cases hdecode : decode r with
    | ok i =>
      rw [step_decoded hinbox hdecode] at hstep
      exact exec_inv (h.setInbox rest) hstep
    | error e =>
      rw [step_undecodable hinbox hdecode] at hstep
      cases hstep

/-! ### Reset -/

theorem chipInv_default : ChipInv defaultConfig (chipAtReset defaultResetRecord) where
  mask_top := rfl
  pending_spare := rfl
  timerA_no_cascade := rfl
  timerB_one_input := rfl
  timerA_delivered := rfl
  timerB_delivered := rfl
  line_is_summary := rfl
  summary_law _ h := absurd rfl h
  tod_format := ⟨rfl, rfl, rfl, rfl⟩
  alarm_format := ⟨rfl, rfl, rfl, rfl⟩
  timerA_strobe _ := rfl
  timerB_strobe _ := rfl

theorem keysTransposed_default : keysTransposed instance1AtReset := by
  unfold keysTransposed
  decide

/-- Settles O50: the default record, in both instances and as a parameter. -/
theorem resetSatisfiesInvariant : Obligations.ResetSatisfiesInvariant where
  cfg_inv := ⟨⟨rfl, rfl, rfl, rfl⟩, chipInv_default, keysTransposed_default, rfl⟩
  chip1_inv := chipInv_default
  chip2_inv := chipInv_default
  keys_transposed := keysTransposed_default
  light_pen_observed := rfl

end Sys2Proof.Machine
end
